-- ==== Sys2Proof/Word.lean ====
section
/-! DEFINITION. Word.lean: the bit vectors the spec's registers, octets and bus offsets are made of (00_scope.md R10: bit 0 is the least significant; every value is unsigned). -/

namespace Sys2Proof

/-- A register, a command word or the data lanes of one bus access: 32 bits (R9). -/
abbrev Word := BitVec 32

/-- One octet of TEXT or PAYLOAD. -/
abbrev Byte := BitVec 8

/-- A stored accumulator or claimed checksum: 24 bits (R9, R30, R31). -/
abbrev Word24 := BitVec 24

/-- A byte offset in the engine's 64 KiB offset space (R60). -/
abbrev Offset := BitVec 16

end Sys2Proof
end

