-- ==== Sys2Proof/Config.lean ====
section
/-! DEFINITION. Config.lean: what an instance of the engine fixes (00_scope.md R8, R9; 10_state.md R44; 93_implementation_defined.md U3, U9, U10, U15) and the free values the spec leaves open (U1, U2, U4, and the error of a blank segment under U15). -/

namespace Sys2Proof

/-- The parameters of one instance. R8: neither the source nor the spec fixes `textCap` and `base`; U3 and U15 name
the other two and give their defaults. They are arguments of the model: a state carries them read-only, so a claim about
every state is a claim about every instance (log 2, DESIGN CHOICE, safe). -/
structure Config where
  /-- `TEXT_CAP`, the size of the TEXT buffer in octets; 16 to 16384 (R8, U10). -/
  textCap : Nat
  /-- `BASE`, the platform address of offset 0x0000; 64 KiB-aligned (R8, U9). -/
  base : Nat
  /-- `STRICT_TRAILING_BITS` (U3): `true` is the spec's rule, check 3 of R114. -/
  strictTrailingBits : Bool
  /-- `SKIP_WHITESPACE` (U15): `false` is the spec's rule, no octet is skipped (R114). -/
  skipWhitespace : Bool
  deriving DecidableEq, Repr

namespace Config

/-- `PAY_CAP` equals `TEXT_CAP` (R9). -/
def payCap (c : Config) : Nat := c.textCap

/-- The instance `State.reset` stands for: `TEXT_CAP = 64` is the convention of 95_test_vectors.md, `BASE = 0`
(log 2, DESIGN CHOICE, unsafe for a claim that rests on either number); U3 and U15 at the spec's defaults. -/
def chosen : Config where
  textCap := 64
  base := 0
  strictTrailingBits := true
  skipWhitespace := false

/-- The free value of the n-th volatile read (R226, U1: an independent draw per read; log 4, safe). -/
opaque volatileRead : Nat → Word

/-- The free octet an unwritten index of TEXT holds: the reset that made it so, then the index (R229, U2: one draw per
index, fixed until the index is written; log 5, safe). -/
opaque unwrittenText : Nat → Nat → Byte

/-- The free octet an unspecified index of PAYLOAD holds: the event that made it so, then the index (R39, U4;
log 6, safe). -/
opaque unspecifiedPayload : Nat → Nat → Byte

/-- The free choice between the two errors a segment of whitespace alone can have where whitespace is skipped, for its
octets with their offsets: `true` for INVALID_SYMBOL, `false` for INVALID_LENGTH (U15 with R115; log 20, safe). -/
opaque blankIsSymbolError : List (Byte × Nat) → Bool

end Config

/-- The seed 0x00B704CE (R141, R44). -/
def crcSeed : Word := 0x00B704CE#32

/-- The polynomial 0x01864CFB (R140, R44). -/
def crcPoly : Word := 0x01864CFB#32

/-- The constant of the `ID` register (R24). -/
def idValue : Word := 0x43323401#32

end Sys2Proof
end

