-- ==== Sys2Proof/Syntax.lean ====
section
/-! DEFINITION. Syntax.lean: the ten commands of spec/opcode_table.json (30_encoding.md R93). -/

namespace Sys2Proof

/-- One constructor per row of the opcode table. The only operand a command word carries is `IMM8` of `CRC_BYTE` (R92);
every other operand is an implicit register or buffer. -/
inductive Instr where
  /-- `NOP`, R173. -/
  | nop
  /-- `CRC_INIT`, R144. -/
  | crcInit
  /-- `CRC_BYTE b`, R145. -/
  | crcByte (b : Byte)
  /-- `CRC_TEXT`, R146. -/
  | crcText
  /-- `CRC_PAY`, R147. -/
  | crcPay
  /-- `CRC_CHECK`, R148. -/
  | crcCheck
  /-- `SPLIT`, R119. -/
  | armSplit
  /-- `DECODE`, R120. -/
  | armDecode
  /-- `VALIDATE`, R170. -/
  | armValidate
  /-- `CLEAR`, R174. -/
  | clear
  deriving DecidableEq, Repr

end Sys2Proof
end

