-- ==== Sys2Proof/Machine/Types.lean ====
section
/-! DEFINITION. Machine/Types.lean: the fixed sets of names the spec uses: access widths, registers, regions, bus answers, the turns of the three agents, outcome codes, segments, and the host access language of 30_encoding.md R98 and R99. -/

namespace Sys2Proof.Machine

/-- The access sizes 1, 2 and 4 bytes; no other exists (R62). -/
inductive Width where
  | byte
  | half
  | word
  deriving DecidableEq, Repr

/-- The fourteen registers of R61, by name. -/
inductive Reg where
  | id
  | ctrl
  | cmd
  | status
  | result
  | errInfo
  | acc
  | claimed
  | textLen
  | payLen
  | segCount
  | seg0
  | seg1
  | caps
  deriving DecidableEq, Repr

/-- What an offset names (R61): a register, reserved space, or an index of a window. -/
inductive Region where
  | register (r : Reg)
  | reserved
  | text (i : Nat)
  | payload (i : Nat)
  deriving DecidableEq, Repr

/-- The answer to one host access (R62). -/
inductive BusResp where
  /-- A read's data: `8n` bits, zero above them. -/
  | data (n : Width) (v : Word)
  /-- A write was taken; also where it was dropped or ignored (R65 to R69). -/
  | ok
  /-- `BUS_ERR`, for a misaligned access (R63, R202). -/
  | busErr
  deriving DecidableEq, Repr

/-- One turn of an agent (R20, R220). A state's agenda lists the turns to come, so every interleaving the spec allows
(R227, U5) is some agenda (log 1, DESIGN CHOICE, safe). -/
inductive Turn where
  /-- The engine may move: it runs the pending command, if there is one (R204). -/
  | engine
  /-- The host's `MemRead` of the platform address `addr` (R62). -/
  | read (addr : Nat) (n : Width)
  /-- The host's `MemWrite` of the low `8n` bits of `v` (R62; log 10). -/
  | write (addr : Nat) (n : Width) (v : Word)
  /-- The platform applies `rst`, one atomic transition (R220, R221; log 11). -/
  | reset
  deriving DecidableEq, Repr

/-- `RESULT.KIND` (R28, R191). The codes 6 and 7 are never produced and are no value of this type (U11; log 13). -/
inductive Kind where
  | noOutcome
  | ok
  | structural
  | decoding
  | checksumFormat
  | checksumMismatch
  deriving DecidableEq, Repr

/-- `RESULT.DETAIL` (R28, R193). -/
inductive Detail where
  | noDetail
  | invalidSymbol
  | invalidLength
  | invalidLastSymbol
  deriving DecidableEq, Repr

/-- The fields of `RESULT` (R28); `seg` is 1 when the checksum segment failed. -/
structure ResultReg where
  kind : Kind
  seg : Bool
  detail : Detail
  deriving DecidableEq, Repr

/-- A segment: the offset in TEXT of its first octet, and its length (R110). -/
structure Seg where
  start : Nat
  len : Nat
  deriving DecidableEq, Repr

/-- `Err(detail, off, octet)` of R114. -/
structure DecodeErr where
  detail : Detail
  off : Nat
  octet : Byte
  deriving DecidableEq, Repr

/-- An `OFF` of the host access language (R98). -/
inductive HostOff where
  | num (n : Nat)
  | reg (r : Reg)
  /-- `TEXT+i`. -/
  | text (i : Nat)
  /-- `PAY+i`. -/
  | pay (i : Nat)
  deriving DecidableEq, Repr

/-- One line of a host program (R97 to R99). The read value's `-> name` is the host's own and is not kept (R98); the
model keeps the bus answers (log 8). `polls` is how many reads of `wait`'s loop return `BUSY = 1` (R99, R227; log 15). -/
inductive HostLine where
  | sw (o : HostOff) (v : Nat)
  | sh (o : HostOff) (v : Nat)
  | sb (o : HostOff) (v : Nat)
  | lw (o : HostOff)
  | lh (o : HostOff)
  | lb (o : HostOff)
  /-- A command mnemonic. -/
  | command (i : Instr)
  /-- `crc.byte B` with the operand as the number the line writes. -/
  | crcByte (b : Nat)
  | wait (polls : Nat)
  /-- `run X`: the command, then `wait`. -/
  | run (i : Instr) (polls : Nat)
  /-- `text "s"`. -/
  | text (s : List Byte)
  /-- `crc.bytes b0, …, bk`, each a `run crc.byte` with the same number of polls. -/
  | crcBytes (bs : List Byte) (polls : Nat)
  | setacc (v : Nat)
  | setclaim (v : Nat)
  | ack
  deriving DecidableEq, Repr

end Sys2Proof.Machine
end

