-- ==== Sys2Proof/WellFormed.lean ====
section
/-! DEFINITION. WellFormed.lean: the checks of an instance's parameters (00_scope.md R8) and of a line of the host access language (30_encoding.md R97, R98). A command needs no check: the type of `Instr` admits exactly the operands a command word can carry (R92). -/

namespace Sys2Proof

/-- R8: `16 ≤ TEXT_CAP ≤ 16384` and `BASE` is 64 KiB-aligned. -/
abbrev Config.WF (c : Config) : Prop :=
  16 ≤ c.textCap ∧ c.textCap ≤ 16384 ∧ c.base % 0x10000 = 0

/-- The instance is at the spec's own rule for both alternatives of U3 and U15. -/
abbrev Config.SpecRule (c : Config) : Prop :=
  c.strictTrailingBits = true ∧ c.skipWhitespace = false

namespace Machine

/-- R98: an offset is a number of the offset space, a register name, or an index inside a window (R61). -/
def HostOff.wf : HostOff → Bool
  | .num n => decide (n < 0x10000)
  | .reg _ => true
  | .text i => decide (i < 0x4000)
  | .pay i => decide (i < 0x4000)

/-- R97, R98: a stored value fits the access, `crc.byte B` with `B > 255` is refused, and a `text` fits the TEXT
window. -/
def HostLine.wf : HostLine → Bool
  | .sw o v => o.wf && decide (v < 2 ^ 32)
  | .sh o v => o.wf && decide (v < 2 ^ 16)
  | .sb o v => o.wf && decide (v < 2 ^ 8)
  | .lw o => o.wf
  | .lh o => o.wf
  | .lb o => o.wf
  | .command _ => true
  | .crcByte b => decide (b ≤ 255)
  | .wait _ => true
  | .run _ _ => true
  | .text s => decide (s.length ≤ 0x4000)
  | .crcBytes _ _ => true
  | .setacc v => decide (v < 2 ^ 32)
  | .setclaim v => decide (v < 2 ^ 32)
  | .ack => true

end Machine
end Sys2Proof
end

