-- ==== Sys2Proof/Decode.lean ====
section
/-! DEFINITION. Decode.lean: the opcode table and decode function of 30_encoding.md R91 to R95, total on every 32-bit word, and the encoder. -/

namespace Sys2Proof

/-- Why a word is illegal: the three classes of R95. The machine treats them alike (R199; log 17). -/
inductive IllegalWord where
  /-- `OPC` in 0x0A to 0xFF. -/
  | undefinedOpcode
  /-- `OPC = 0x02` and `RSV ≠ 0`. -/
  | crcByteReserved
  /-- Another defined `OPC` and `w[31:8] ≠ 0`. -/
  | operandBitsSet
  deriving DecidableEq, Repr

/-- Field `OPC`, `w[7:0]` (R91). -/
def opcField (w : Word) : Byte := w.extractLsb' 0 8

/-- Field `IMM8`, `w[15:8]` (R91, R92). -/
def imm8Field (w : Word) : Byte := w.extractLsb' 8 8

/-- Field `RSV`, `w[31:16]` (R91). -/
def rsvField (w : Word) : BitVec 16 := w.extractLsb' 16 16

/-- The row of R93 that an opcode other than 0x02 names. -/
def plainCommand (opc : Byte) : Option Instr :=
  match opc.toNat with
  | 0x00 => some .nop
  | 0x01 => some .crcInit
  | 0x03 => some .crcText
  | 0x04 => some .crcPay
  | 0x05 => some .crcCheck
  | 0x06 => some .armSplit
  | 0x07 => some .armDecode
  | 0x08 => some .armValidate
  | 0x09 => some .clear
  | _ => none

/-- R94: the decode function. An illegal word is rejected by the name of its class. -/
def decode (w : Word) : Except IllegalWord Instr :=
  if opcField w = 0x02#8 then
    if rsvField w = 0 then .ok (.crcByte (imm8Field w)) else .error .crcByteReserved
  else
    match plainCommand (opcField w) with
    | some i => if w.extractLsb' 8 24 = 0 then .ok i else .error .operandBitsSet
    | none => .error .undefinedOpcode

/-- The opcode of a command (R93). -/
def Instr.opcode : Instr → Byte
  | .nop => 0x00#8
  | .crcInit => 0x01#8
  | .crcByte _ => 0x02#8
  | .crcText => 0x03#8
  | .crcPay => 0x04#8
  | .crcCheck => 0x05#8
  | .armSplit => 0x06#8
  | .armDecode => 0x07#8
  | .armValidate => 0x08#8
  | .clear => 0x09#8

/-- `IMM8` of a command: the byte operand of `CRC_BYTE`, 0 for every other (R91). -/
def Instr.imm8 : Instr → Byte
  | .crcByte b => b
  | .nop => 0#8
  | .crcInit => 0#8
  | .crcText => 0#8
  | .crcPay => 0#8
  | .crcCheck => 0#8
  | .armSplit => 0#8
  | .armDecode => 0#8
  | .armValidate => 0#8
  | .clear => 0#8

/-- The word of a command: `OPC | IMM8 << 8`, `RSV = 0` (R91, R97). -/
def encode (i : Instr) : Word :=
  i.opcode.setWidth 32 ||| (i.imm8.setWidth 32 <<< 8)

/-- `match` of a command's row of R93. -/
def Instr.rowMatch (i : Instr) : Word := i.opcode.setWidth 32

/-- `mask` of a command's row of R93: only `CRC_BYTE` leaves `IMM8` free. -/
def Instr.rowMask : Instr → Word
  | .crcByte _ => 0xFFFF00FF#32
  | .nop => 0xFFFFFFFF#32
  | .crcInit => 0xFFFFFFFF#32
  | .crcText => 0xFFFFFFFF#32
  | .crcPay => 0xFFFFFFFF#32
  | .crcCheck => 0xFFFFFFFF#32
  | .armSplit => 0xFFFFFFFF#32
  | .armDecode => 0xFFFFFFFF#32
  | .armValidate => 0xFFFFFFFF#32
  | .clear => 0xFFFFFFFF#32

/-- The command word an opcode-table row's bits stand for: a command is exactly one 32-bit word (R90), so a row of
`nbits` bits has zeros above them, and a row longer than a word is none. -/
def tableWord (nbits w : Nat) : Option Word :=
  if nbits ≤ 32 then some (BitVec.ofNat 32 (w % 2 ^ nbits)) else none

/-- The instruction this decoder reads from an instruction of the opcode table whose bits are `w`. -/
def decodeTableWord (nbits w : Nat) : Option Instr :=
  match tableWord nbits w with
  | none => none
  | some v =>
    match decode v with
    | .ok i => some i
    | .error _ => none

end Sys2Proof
end

