-- ==== Sys2Proof/Machine/State.lean ====
section
/-! DEFINITION. Machine/State.lean: the architectural state of 10_state.md R21, the model's own fields beside it, the reasons a step can stop, and the state after reset (R43). -/

namespace Sys2Proof.Machine

/-- The written octets of a buffer, by index: indices strictly rising (`Memory.wf`). An unlisted index has no stored
octet; what the machine then reads is a free value (log 5, log 6). -/
abbrev Memory := List Host.Cell

/-- The canonical form: strictly rising indices. An entry holds a stored octet and an unlisted index holds none, so no
entry equals what an unlisted index reads as, and equal buffers are equal lists. -/
abbrev Memory.wf (m : Memory) : Prop := m.Pairwise (fun x y => x.1 < y.1)

/-- Why the machine stops with a fault. -/
inductive Fault where
  /-- Raised by a host turn whose platform address lies outside `BASE .. BASE + 0xFFFF`: it does not reach the engine's
  address space (R60), and what answers it is the platform's (log 9, DESIGN CHOICE). Safe: the model stops where the
  platform goes on. -/
  | outsideWindow
  deriving DecidableEq, Repr

/-- Why the machine has no meaning for something. -/
inductive Refusal where
  /-- Raised by an arm of `exec` that has no meaning yet; no arm does. Safe. -/
  | notModelled (mnemonic : String)
  deriving DecidableEq, Repr

/-- The state. The fields from `ie` to `payload` are the tuple of R21, whose rule each names. -/
structure State where
  /-- The instance's parameters (R44): no step changes them. -/
  cfg : Config
  /-- `CTRL.IE`, R25. -/
  ie : Bool
  /-- `STATUS.DONE`, R27. -/
  done : Bool
  /-- `STATUS.CMDERR`, R27. -/
  cmdErr : Bool
  /-- `STATUS.OVR`, R27. -/
  ovr : Bool
  /-- `STATUS.LENERR`, R27. -/
  lenErr : Bool
  /-- The hidden command slot, R40; `STATUS.BUSY` is whether it is filled. -/
  pending : Option Word
  /-- `RESULT`, R28. -/
  result : ResultReg
  /-- `ERR_INFO`, R29. -/
  errInfo : Word
  /-- `ACC`, R30. -/
  acc : Word24
  /-- `CLAIMED`, R31. -/
  claimed : Word24
  /-- `TEXT_LEN`, R32. -/
  textLen : Word
  /-- `PAY_LEN`, R33. -/
  payLen : Word
  /-- `SEG_COUNT`, R34. -/
  segCount : Word
  /-- `SEG0`, R35. -/
  seg0 : Word
  /-- `SEG1`, R36. -/
  seg1 : Word
  /-- `TEXT`, R38: the octets written since reset. -/
  text : Memory
  /-- `PAYLOAD`, R39: the octets written since it was last unspecified. -/
  payload : Memory
  /-- The model's own: the turns of host, engine and reset input still to come (log 1). -/
  agenda : List Turn
  /-- The model's own: the bus answers so far, newest first (log 8). -/
  responses : List BusResp
  /-- The model's own: how many volatile reads there were (log 4). -/
  draws : Nat
  /-- The model's own: keys the free octets of unwritten TEXT (log 5). -/
  textEra : Nat
  /-- The model's own: keys the free octets of unspecified PAYLOAD (log 6). -/
  payEra : Nat
  deriving DecidableEq, Repr

/-- The state after reset of the instance `c` (R43, R220, R222). -/
def State.resetOf (c : Config) : State where
  cfg := c
  ie := false
  done := false
  cmdErr := false
  ovr := false
  lenErr := false
  pending := none
  result := ⟨.noOutcome, false, .noDetail⟩
  errInfo := 0
  acc := crcSeed.setWidth 24
  claimed := 0
  textLen := 0
  payLen := 0
  segCount := 0
  seg0 := 0
  seg1 := 0
  text := []
  payload := []
  agenda := []
  responses := []
  draws := 0
  textEra := 0
  payEra := 0

/-- The machine right after reset, of the instance `Config.chosen` (log 2; the model's own fields: log 7). -/
def State.reset : State := State.resetOf Config.chosen

end Sys2Proof.Machine
end

