-- ==== Sys2Proof/Machine/Ops.lean ====
section
/-! DEFINITION. Machine/Ops.lean: the shared operations over buffers, octet lanes and registers; the effects of an outcome (60_exceptions.md R196), which take the place an exception entry has elsewhere, and completion (R204), which takes the place of a return (R190, R206: nothing traps and nothing is returned from). -/

namespace Sys2Proof.Machine

/-! ### Buffers -/

/-- The stored octet at an index, if one is listed. -/
def Memory.lookup : Memory → Nat → Option Byte
  | [], _ => none
  | (a, b) :: m, k => if a = k then some b else Memory.lookup m k

/-- Store one octet, keeping the canonical form. -/
def Memory.write : Memory → Nat → Byte → Memory
  | [], k, b => [(k, b)]
  | (a, c) :: m, k, b =>
    if k < a then (k, b) :: (a, c) :: m
    else if k = a then (k, b) :: m
    else (a, c) :: Memory.write m k b

/-- Store a sequence of octets from index `k` upward. -/
def Memory.writeBytes : Memory → Nat → List Byte → Memory
  | m, _, [] => m
  | m, k, b :: bs => Memory.writeBytes (m.write k b) (k + 1) bs

/-- Store a sequence of octets from index `k` upward, ignoring indices at or above `cap` (R67). -/
def Memory.writeBelow (cap : Nat) : Memory → Nat → List Byte → Memory
  | m, _, [] => m
  | m, k, b :: bs => Memory.writeBelow cap (if k < cap then m.write k b else m) (k + 1) bs

/-! ### Octet lanes (R64: little-endian) -/

/-- `n` in bytes. -/
def Width.bytes : Width → Nat
  | .byte => 1
  | .half => 2
  | .word => 4

/-- The low `8n` bits of a value. -/
def Width.narrow (n : Width) (v : Word) : Word :=
  match n with
  | .byte => (v.extractLsb' 0 8).setWidth 32
  | .half => (v.extractLsb' 0 16).setWidth 32
  | .word => v

/-- `v[8k+7 : 8k]`. -/
def lane (v : Word) (k : Nat) : Byte := v.extractLsb' (8 * k) 8

/-- The octets of an `n`-byte value, lowest offset first. -/
def lanes (n : Width) (v : Word) : List Byte := (List.range n.bytes).map (lane v)

/-- The value whose octets these are, lowest offset first. -/
def ofLanes : List Byte → Word
  | [] => 0
  | b :: bs => b.setWidth 32 ||| (ofLanes bs <<< 8)

/-! ### Reading the buffers -/

/-- `STATUS.BUSY` (R27, R40). -/
def State.busy (s : State) : Bool := s.pending.isSome

/-- `TEXT[i]`: the octet written there, or the free octet the index holds since reset (R229, U2). -/
def textOctet (s : State) (i : Nat) : Byte :=
  match s.text.lookup i with
  | some b => b
  | none => Config.unwrittenText s.textEra i

/-- `PAYLOAD[i]`: the octet written there, or the free octet of an unspecified index (R39, U4). -/
def payloadOctet (s : State) (i : Nat) : Byte :=
  match s.payload.lookup i with
  | some b => b
  | none => Config.unspecifiedPayload s.payEra i

/-! ### Register updates -/

/-- Record the bus answer of one host access (R62; log 8). -/
def respond (r : BusResp) (s : State) : State := { s with responses := r :: s.responses }

/-- A write dropped because `BUSY = 1`: no effect but `STATUS.OVR <- 1` (R200). -/
def dropWrite (s : State) : State := { s with ovr := true }

/-- `x[ACC] <- v[23:0]` (R30). -/
def setAcc (v : Word) (s : State) : State := { s with acc := v.setWidth 24 }

/-- `x[CLAIMED] <- v[23:0]` (R31). -/
def setClaimed (v : Word) (s : State) : State := { s with claimed := v.setWidth 24 }

/-- `(len << 16) | start` (R35, R112). -/
def segWord (g : Seg) : Word := (BitVec.ofNat 32 g.len <<< 16) ||| BitVec.ofNat 32 g.start

/-- `(len(segs) > k) ? segWord(segs[k]) : 0` (R112). -/
def segWordAt (segs : List Seg) (k : Nat) : Word :=
  match segs[k]? with
  | some g => segWord g
  | none => 0

/-- `record_split` of R112. -/
def recordSplit (segs : List Seg) (s : State) : State :=
  { s with
    segCount := BitVec.ofNat 32 segs.length
    seg0 := segWordAt segs 0
    seg1 := segWordAt segs 1 }

/-- The last three lines of `decode_armor` (R118): the payload, its length and the claimed value. -/
def storeDecoded (d : List Byte) (claim : Word24) (s : State) : State :=
  { s with
    payload := s.payload.writeBytes 0 d
    payLen := BitVec.ofNat 32 d.length
    claimed := claim }

/-! ### Outcomes and completion -/

/-- `raise K(info) [seg, detail]` of R196, all but the end of the command: the caller runs no later line. `PAYLOAD`
becomes unspecified, so nothing stays listed (log 6). -/
def raiseOutcome (k : Kind) (seg : Bool) (detail : Detail) (info : Word) (s : State) : State :=
  { s with
    result := ⟨k, seg, detail⟩
    errInfo := info
    payLen := 0
    claimed := if k = .checksumMismatch then s.claimed else 0
    payload := []
    payEra := s.payEra + 1 }

/-- `raise StructuralError(info = count)` (R192). -/
def raiseStructural (count : Nat) (s : State) : State :=
  raiseOutcome .structural false .noDetail (BitVec.ofNat 32 count) s

/-- `raise DecodingError(seg, detail, info = off | (octet << 16))` (R193). -/
def raiseDecoding (seg : Bool) (e : DecodeErr) (s : State) : State :=
  raiseOutcome .decoding seg e.detail (BitVec.ofNat 32 e.off ||| (e.octet.setWidth 32 <<< 16)) s

/-- `raise ChecksumFormatError(info = n)` (R194). -/
def raiseFormat (n : Nat) (s : State) : State :=
  raiseOutcome .checksumFormat false .noDetail (BitVec.ofNat 32 n) s

/-- `raise ChecksumMismatchError(info = 0)` (R195). -/
def raiseMismatch (s : State) : State :=
  raiseOutcome .checksumMismatch false .noDetail 0 s

/-- `finish OK` of R196. -/
def finishOk (s : State) : State :=
  { s with
    result := ⟨.ok, false, .noDetail⟩
    errInfo := 0 }

/-- Completion (R204): `STATUS.DONE <- 1`, `pending <- none`. -/
def complete (s : State) : State :=
  { s with
    done := true
    pending := none }

/-- The illegal-command outcome (R199): `CMDERR`, then completion; nothing else changes. -/
def illegalCommand (s : State) : State := complete { s with cmdErr := true }

end Sys2Proof.Machine
end

