-- ==== Sys2Proof/Machine/Flags.lean ====
section
/-! DEFINITION. Machine/Flags.lean: the condition state of 10_state.md R41: the read values of `CTRL`, `STATUS` and `RESULT`, the write-one-to-clear rule of R27, and the `irq` output of 60_exceptions.md R205. -/

namespace Sys2Proof.Machine

/-- A flag at bit `k` of a word. -/
def flagAt (b : Bool) (k : Nat) : Word := if b then 1#32 <<< k else 0#32

/-- The read value of `CTRL` (R25). -/
def ctrlWord (s : State) : Word := flagAt s.ie 0

/-- The read value of `STATUS` (R27). -/
def statusWord (s : State) : Word :=
  flagAt s.busy 0 ||| flagAt s.done 1 ||| flagAt s.cmdErr 2 ||| flagAt s.ovr 3 ||| flagAt s.lenErr 4

/-- The outcome codes of R28 and R191. -/
def Kind.code : Kind → Word
  | .noOutcome => 0#32
  | .ok => 1#32
  | .structural => 2#32
  | .decoding => 3#32
  | .checksumFormat => 4#32
  | .checksumMismatch => 5#32

/-- The detail codes of R28 and R193. -/
def Detail.code : Detail → Word
  | .noDetail => 0#32
  | .invalidSymbol => 1#32
  | .invalidLength => 2#32
  | .invalidLastSymbol => 3#32

/-- The read value of `RESULT`: `(detail << 4) | (seg << 3) | code(K)` (R28, R196). -/
def resultWord (r : ResultReg) : Word := (r.detail.code <<< 4) ||| flagAt r.seg 3 ||| r.kind.code

/-- A 4-byte write of `v` to `STATUS`: a 1 in bits 1 to 4 clears that bit; `BUSY` is not written (R27). -/
def writeStatus (v : Word) (s : State) : State :=
  { s with
    done := s.done && !v.getLsbD 1
    cmdErr := s.cmdErr && !v.getLsbD 2
    ovr := s.ovr && !v.getLsbD 3
    lenErr := s.lenErr && !v.getLsbD 4 }

/-- A 4-byte write of `v` to `CTRL` stores `IE` (R25). -/
def writeCtrl (v : Word) (s : State) : State := { s with ie := v.getLsbD 0 }

/-- The interrupt output, level-sensitive and active high: `irq = CTRL.IE & STATUS.DONE` (R205). -/
def State.irq (s : State) : Bool := s.ie && s.done

end Sys2Proof.Machine
end

