-- ==== Sys2Proof/Machine/Operands.lean ====
section
/-! DEFINITION. Machine/Operands.lean: the operand forms of 30_encoding.md R92 and R93: the immediate octet, the accumulator widened to 32 bits, and the two buffers as octet sequences. -/

namespace Sys2Proof.Machine

/-- `zext_32(b)` of `IMM8` (R92, R140). -/
def immWord (b : Byte) : Word := b.setWidth 32

/-- `zext_32(x[ACC])` (R145 to R147). -/
def accWord (s : State) : Word := s.acc.setWidth 32

/-- `zext_32(x[CLAIMED])`. -/
def claimedWord (s : State) : Word := s.claimed.setWidth 32

/-- `TEXT[0 .. x[TEXT_LEN])` (R72, R93). -/
def textOperand (s : State) : List Byte := (List.range s.textLen.toNat).map (textOctet s)

/-- `PAYLOAD[0 .. x[PAY_LEN])` (R72, R93). -/
def payOperand (s : State) : List Byte := (List.range s.payLen.toNat).map (payloadOctet s)

end Sys2Proof.Machine
end

