-- ==== Sys2Proof/Machine/Bus.lean ====
section
/-! DEFINITION. Machine/Bus.lean: the host's accesses (20_memory.md R60 to R71): the address map, register reads and write actions, the two windows, the busy rules (70_reset_and_hazards.md R224 to R226), and reset (R220). -/

namespace Sys2Proof.Machine

/-! ### The address map -/

/-- The register at a 4-byte-aligned offset, by the offset's word number (R61). -/
def regAt : Nat → Option Reg
  | 0 => some .id
  | 1 => some .ctrl
  | 2 => some .cmd
  | 3 => some .status
  | 4 => some .result
  | 5 => some .errInfo
  | 6 => some .acc
  | 7 => some .claimed
  | 8 => some .textLen
  | 9 => some .payLen
  | 10 => some .segCount
  | 11 => some .seg0
  | 12 => some .seg1
  | 13 => some .caps
  | _ => none

/-- The offset of a register (R61). -/
def Reg.offset : Reg → Nat
  | .id => 0x000
  | .ctrl => 0x004
  | .cmd => 0x008
  | .status => 0x00C
  | .result => 0x010
  | .errInfo => 0x014
  | .acc => 0x018
  | .claimed => 0x01C
  | .textLen => 0x020
  | .payLen => 0x024
  | .segCount => 0x028
  | .seg0 => 0x02C
  | .seg1 => 0x030
  | .caps => 0x034

/-- The region an offset lies in (R61). -/
def regionOf (off : Offset) : Region :=
  let a := off.toNat
  if a < 0x4000 then
    match regAt (a / 4) with
    | some r => .register r
    | none => .reserved
  else if a < 0x8000 then .text (a - 0x4000)
  else if a < 0xC000 then .payload (a - 0x8000)
  else .reserved

/-- Natural alignment, `off mod n = 0` (R63). -/
def aligned (off : Offset) (n : Width) : Bool := off.toNat % n.bytes == 0

/-- The offset a platform address `BASE + offset` names (R60); `none` outside the engine's 64 KiB. -/
def offsetOf (c : Config) (addr : Nat) : Option Offset :=
  if c.base ≤ addr ∧ addr < c.base + 0x10000 then some (BitVec.ofNat 16 (addr - c.base)) else none

/-! ### Reads -/

/-- `CAPS`: `TEXT_CAP | PAY_CAP << 16` (R37). -/
def capsWord (c : Config) : Word :=
  (BitVec.ofNat 16 c.textCap).setWidth 32 ||| ((BitVec.ofNat 16 c.payCap).setWidth 32 <<< 16)

/-- The read value of a register (R24 to R37). -/
def readReg (r : Reg) (s : State) : Word :=
  match r with
  | .id => idValue
  | .ctrl => ctrlWord s
  | .cmd => 0
  | .status => statusWord s
  | .result => resultWord s.result
  | .errInfo => s.errInfo
  | .acc => accWord s
  | .claimed => claimedWord s
  | .textLen => s.textLen
  | .payLen => s.payLen
  | .segCount => s.segCount
  | .seg0 => s.seg0
  | .seg1 => s.seg1
  | .caps => capsWord s.cfg

/-- Octet `i` of the TEXT window: 0 at and above `TEXT_CAP` (R67). -/
def textWindow (s : State) (i : Nat) : Byte := if i < s.cfg.textCap then textOctet s i else 0

/-- Octet `i` of the PAYLOAD window: 0 at and above `PAY_LEN` (R68). -/
def payWindow (s : State) (i : Nat) : Byte := if i < s.payLen.toNat then payloadOctet s i else 0

/-- The value an aligned read returns while it is exact (R64 to R69). -/
def peek (off : Offset) (n : Width) (s : State) : Word :=
  match regionOf off with
  | .register r => n.narrow (readReg r s >>> (8 * (off.toNat % 4)))
  | .reserved => 0
  | .text i => ofLanes ((List.range n.bytes).map (fun k => textWindow s (i + k)))
  | .payload i => ofLanes ((List.range n.bytes).map (fun k => payWindow s (i + k)))

/-- The registers whose reads are unspecified while `BUSY = 1` (R226). -/
def Reg.volatile : Reg → Bool
  | .result => true
  | .errInfo => true
  | .acc => true
  | .claimed => true
  | .payLen => true
  | .segCount => true
  | .seg0 => true
  | .seg1 => true
  | .id => false
  | .ctrl => false
  | .cmd => false
  | .status => false
  | .textLen => false
  | .caps => false

/-- The locations whose reads are unspecified while `BUSY = 1` (R226): those registers and the PAYLOAD window. -/
def Region.volatile : Region → Bool
  | .register r => r.volatile
  | .reserved => false
  | .text _ => false
  | .payload _ => true

/-- A volatile read: an independent draw of `8n` bits (R71, R226, U1; log 4). -/
def volatileRead (n : Width) (s : State) : State :=
  respond (.data n (n.narrow (Config.volatileRead s.draws))) { s with draws := s.draws + 1 }

/-- `MemRead(off, n)` (R62 to R69, R226). -/
def hostRead (off : Offset) (n : Width) (s : State) : State :=
  if !aligned off n then respond .busErr s
  else if s.busy && (regionOf off).volatile then volatileRead n s
  else respond (.data n (peek off n s)) s

/-! ### Writes -/

/-- Perform an action unless a command is pending; then drop the write (R200, R225). -/
def unlessBusy (act : State → State) (s : State) : State := if s.busy then dropWrite s else act s

/-- Acceptance of the word `w` (R224), where none is pending. -/
def accept (w : Word) (s : State) : State :=
  { s with
    pending := some w
    done := false }

/-- The write action of `TEXT_LEN` where no command is pending (R32, R201). -/
def writeTextLen (v : Word) (s : State) : State :=
  if v.toNat > s.cfg.textCap then { s with lenErr := true } else { s with textLen := v }

/-- The write action of a register for a 4-byte write (R24 to R37); read-only registers ignore it. -/
def writeReg (r : Reg) (v : Word) (s : State) : State :=
  match r with
  | .ctrl => writeCtrl v s
  | .cmd => unlessBusy (accept v) s
  | .status => writeStatus v s
  | .acc => unlessBusy (setAcc v) s
  | .claimed => unlessBusy (setClaimed v) s
  | .textLen => unlessBusy (writeTextLen v) s
  | .id => s
  | .result => s
  | .errInfo => s
  | .payLen => s
  | .segCount => s
  | .seg0 => s
  | .seg1 => s
  | .caps => s

/-- The TEXT window's write action for the `8n`-bit value `v` at index `i` (R67). -/
def writeText (i : Nat) (n : Width) (v : Word) (s : State) : State :=
  { s with text := s.text.writeBelow s.cfg.textCap i (lanes n v) }

/-- The effect of an aligned write (R65 to R69, judged in the order of R203). -/
def poke (off : Offset) (n : Width) (v : Word) (s : State) : State :=
  match regionOf off with
  | .register r => if n = .word then writeReg r v s else s
  | .reserved => s
  | .text i => unlessBusy (writeText i n v) s
  | .payload _ => s

/-- `MemWrite(off, n, v)` (R62 to R69). -/
def hostWrite (off : Offset) (n : Width) (v : Word) (s : State) : State :=
  if !aligned off n then respond .busErr s else respond .ok (poke off n v s)

/-! ### The host's and the reset input's turns -/

/-- The host's read of a platform address (R60, R62). -/
def readTurn (addr : Nat) (n : Width) (s : State) : Host.Outcome State Fault Refusal :=
  match offsetOf s.cfg addr with
  | some off => .next (hostRead off n s)
  | none => .fault .outsideWindow

/-- The host's write of a platform address (R60, R62). -/
def writeTurn (addr : Nat) (n : Width) (v : Word) (s : State) : Host.Outcome State Fault Refusal :=
  match offsetOf s.cfg addr with
  | some off => .next (hostWrite off n v s)
  | none => .fault .outsideWindow

/-- Reset (R220): every register at its reset value, a pending command discarded, TEXT and PAYLOAD unspecified. The
parameters and the model's own record of the world outside stay (log 11). -/
def resetMachine (s : State) : State :=
  { State.resetOf s.cfg with
    agenda := s.agenda
    responses := s.responses
    draws := s.draws
    textEra := s.textEra + 1
    payEra := s.payEra + 1 }

end Sys2Proof.Machine
end

