-- ==== Sys2Proof/Machine/Base64.lean ====
section
/-! DEFINITION. Machine/Base64.lean: the splitter and the base64 decoder of 40_armor.md as functions: `split` (R110), `val` (R113), `b64decode` (R114), `assemble` (R116) and the claimed value (R117). -/

namespace Sys2Proof.Machine

/-- The delimiter `=` (R110). -/
def delimiter : Byte := 0x3D#8

/-- `split` of R110, reading on from offset `i`; `run` is the start of the segment being read, if one is. A run of octets
other than the delimiter ends at a delimiter or at the end of the text. -/
def splitFrom : Nat → Option Nat → List Byte → List Seg
  | _, none, [] => []
  | i, some st, [] => [⟨st, i - st⟩]
  | i, none, b :: t => if b = delimiter then splitFrom (i + 1) none t else splitFrom (i + 1) (some i) t
  | i, some st, b :: t =>
    if b = delimiter then ⟨st, i - st⟩ :: splitFrom (i + 1) none t else splitFrom (i + 1) (some st) t

/-- `split(t)` of R110: the maximal runs of octets other than the delimiter, in increasing order of start. -/
def split (t : List Byte) : List Seg := splitFrom 0 none t

/-- `val` of R113: the standard base64 alphabet; `none` is the spec's ⊥. -/
def b64Val (o : Byte) : Option (BitVec 6) :=
  let n := o.toNat
  if 0x41 ≤ n ∧ n ≤ 0x5A then some (BitVec.ofNat 6 (n - 0x41))
  else if 0x61 ≤ n ∧ n ≤ 0x7A then some (BitVec.ofNat 6 (n - 0x47))
  else if 0x30 ≤ n ∧ n ≤ 0x39 then some (BitVec.ofNat 6 (n + 4))
  else if n = 0x2B then some 62#6
  else if n = 0x2F then some 63#6
  else none

/-- Space, TAB, CR and LF: what `SKIP_WHITESPACE` skips (U15; log 3). -/
def isWhitespace (o : Byte) : Bool :=
  o == 0x20#8 || o == 0x09#8 || o == 0x0D#8 || o == 0x0A#8

/-- The octets of a segment with their offsets in the text: `t[s .. s+L)` of R114. -/
def octetsOf (t : List Byte) (g : Seg) : List (Byte × Nat) := ((t.drop g.start).take g.len).zipIdx g.start

/-- The octets the checks run over: all, or those that are no whitespace where the instance skips it (U15). -/
def symbolsOf (c : Config) (octets : List (Byte × Nat)) : List (Byte × Nat) :=
  if c.skipWhitespace then octets.filter (fun p => !isWhitespace p.1) else octets

/-- `assemble` of R116: groups of four symbols give three bytes, most significant first; a final group of 2 or 3 gives 1
or 2. -/
def assemble : List (BitVec 6) → List Byte
  | a :: b :: c :: d :: rest =>
    let q : BitVec 24 := a ++ b ++ c ++ d
    q.extractLsb' 16 8 :: q.extractLsb' 8 8 :: q.extractLsb' 0 8 :: assemble rest
  | [a, b, c] =>
    let q : BitVec 24 := a ++ b ++ c ++ 0#6
    [q.extractLsb' 16 8, q.extractLsb' 8 8]
  | [a, b] =>
    let q : BitVec 24 := a ++ b ++ 0#12
    [q.extractLsb' 16 8]
  | [_] => []
  | [] => []

/-- Check 3 of R114: the last symbol `o` of a segment of `r` modulo 4 symbols carries a non-zero bit beyond the decoded
bytes. -/
def trailingBitsSet (r : Nat) (o : Byte) : Bool :=
  match b64Val o with
  | some v => (r == 2 && v &&& 0x0F#6 != 0#6) || (r == 3 && v &&& 0x03#6 != 0#6)
  | none => false

/-- A segment without symbols: whitespace alone, where the instance skips it. No valid segment decodes to zero bytes
(R115), so it is an error; which of the two, U15 does not say, and a free value decides (log 20). R193 gives the offset of
each. A segment without octets, outside R114's `L ≥ 1`, is none that `split` gives. -/
def blankSegment (octets : List (Byte × Nat)) : Except DecodeErr (List Byte) :=
  match octets with
  | [] => .ok []
  | first :: rest =>
    .error (if Config.blankIsSymbolError octets then ⟨.invalidSymbol, first.2, first.1⟩
      else ⟨.invalidLength, (rest.getLastD first).2, (rest.getLastD first).1⟩)

/-- The three checks of R114 in their order, then `assemble`, over the symbols of a segment. -/
def b64DecodeSymbols (c : Config) (octets : List (Byte × Nat)) : Except DecodeErr (List Byte) :=
  let syms := symbolsOf c octets
  match syms.find? (fun p => (b64Val p.1).isNone) with
  | some (o, off) => .error ⟨.invalidSymbol, off, o⟩
  | none =>
    match syms.getLast? with
    | none => blankSegment octets
    | some (o, off) =>
      if syms.length % 4 = 1 then .error ⟨.invalidLength, off, o⟩
      else if c.strictTrailingBits && trailingBitsSet (syms.length % 4) o then .error ⟨.invalidLastSymbol, off, o⟩
      else .ok (assemble (syms.filterMap (fun p => b64Val p.1)))

/-- `b64decode(t, s, L)` of R114. -/
def b64Decode (c : Config) (t : List Byte) (g : Seg) : Except DecodeErr (List Byte) :=
  b64DecodeSymbols c (octetsOf t g)

/-- The claimed value `(c[0] << 16) | (c[1] << 8) | c[2]`, big-endian (R117). -/
def claimedValue (c0 c1 c2 : Byte) : Word24 :=
  (c0.setWidth 24 <<< 16) ||| (c1.setWidth 24 <<< 8) ||| c2.setWidth 24

end Sys2Proof.Machine
end

