-- ==== Sys2Proof/Machine/Armor.lean ====
section
/-! DEFINITION. Machine/Armor.lean: the split-and-decode procedure (40_armor.md R111, R118) and the commands `SPLIT` (R119) and `DECODE` (R120). -/

namespace Sys2Proof.Machine

/-- `decode_armor` of R118. `.error` is the state after a `raise`, with which the command ends; `.ok` is the state with
which the command goes on. -/
def decodeArmor (s : State) : Except State State :=
  let t := textOperand s
  let segs := split t
  let s1 := recordSplit segs s
  match segs with
  | [g0, g1] =>
    match b64Decode s.cfg t g0 with
    | .error e => .error (raiseDecoding false e s1)
    | .ok d =>
      match b64Decode s.cfg t g1 with
      | .error e => .error (raiseDecoding true e s1)
      | .ok [c0, c1, c2] => .ok (storeDecoded d (claimedValue c0 c1 c2) s1)
      | .ok c => .error (raiseFormat c.length s1)
  | _ => .error (raiseStructural segs.length s1)

/-- `SPLIT`, R119: record the split, then the structural check of R111. -/
def splitText (s : State) : State :=
  let segs := split (textOperand s)
  let s1 := recordSplit segs s
  if segs.length = 2 then finishOk s1 else raiseStructural segs.length s1

/-- `SPLIT`, R119. -/
def execArmSplit (s : State) : Host.Outcome State Fault Refusal := .next (complete (splitText s))

/-- `DECODE`, R120. -/
def execArmDecode (s : State) : Host.Outcome State Fault Refusal :=
  match decodeArmor s with
  | .error s' => .next (complete s')
  | .ok s' => .next (complete (finishOk s'))

end Sys2Proof.Machine
end

