-- ==== Sys2Proof/Machine/Crc.lean ====
section
/-! DEFINITION. Machine/Crc.lean: the CRC-24 step and function of 41_crc24.md R140 and R141, and the commands `CRC_INIT`, `CRC_BYTE`, `CRC_TEXT`, `CRC_PAY` and `CRC_CHECK` (R144 to R149). -/

namespace Sys2Proof.Machine

/-- One round of 2b (R140): shift left by 1, truncated to 32 bits; if bit 24 is then set, XOR with the polynomial. -/
def crcShift (acc : Word) : Word :=
  if (acc <<< 1).getLsbD 24 then (acc <<< 1) ^^^ crcPoly else acc <<< 1

/-- `k` rounds of 2b. -/
def crcShifts : Nat → Word → Word
  | 0, acc => acc
  | k + 1, acc => crcShifts k (crcShift acc)

/-- `crc_step` of R140. -/
def crcStep (acc : Word) (b : Byte) : Word := crcShifts 8 (acc ^^^ (immWord b <<< 16))

/-- `crc_from` of R141: the bytes in index order. -/
def crcFrom (a : Word) (s : List Byte) : Word := s.foldl crcStep a

/-- `crc24` of R141: seeded, and masked to 24 bits at the end. -/
def crc24 (s : List Byte) : Word := crcFrom crcSeed s &&& 0x00FFFFFF#32

/-- Fold bytes into `ACC`: `x[ACC] <- crc_from(zext_32(x[ACC]), bytes) & 0x00FFFFFF` (R145 to R147). -/
def foldIntoAcc (bytes : List Byte) (s : State) : State :=
  setAcc (crcFrom (accWord s) bytes &&& 0x00FFFFFF#32) s

/-- The comparison of R149, all 24 bits, and its outcome (R148, R170). -/
def compareClaim (s : State) : State :=
  if accWord s &&& 0x00FFFFFF#32 = claimedWord s then finishOk s else raiseMismatch s

/-- `CRC_INIT`, R144. -/
def execCrcInit (s : State) : Host.Outcome State Fault Refusal := .next (complete (setAcc crcSeed s))

/-- `CRC_BYTE b`, R145. -/
def execCrcByte (b : Byte) (s : State) : Host.Outcome State Fault Refusal := .next (complete (foldIntoAcc [b] s))

/-- `CRC_TEXT`, R146: the raw text, no re-seeding. -/
def execCrcText (s : State) : Host.Outcome State Fault Refusal := .next (complete (foldIntoAcc (textOperand s) s))

/-- `CRC_PAY`, R147: the decoded payload, no re-seeding. -/
def execCrcPay (s : State) : Host.Outcome State Fault Refusal := .next (complete (foldIntoAcc (payOperand s) s))

/-- `CRC_CHECK`, R148. -/
def execCrcCheck (s : State) : Host.Outcome State Fault Refusal := .next (complete (compareClaim s))

end Sys2Proof.Machine
end

