-- ==== Sys2Proof/Machine/Control.lean ====
section
/-! DEFINITION. Machine/Control.lean: the whole pipeline `VALIDATE` (42_pipeline_control.md R170) and the housekeeping commands `NOP` (R173) and `CLEAR` (R174). -/

namespace Sys2Proof.Machine

/-- The CRC half of `VALIDATE` (R170): seed, fold the payload, store `ACC`. -/
def checksumPayload (s : State) : State :=
  setAcc (crcFrom crcSeed (payOperand s) &&& 0x00FFFFFF#32) s

/-- `VALIDATE`, R170. -/
def execArmValidate (s : State) : Host.Outcome State Fault Refusal :=
  match decodeArmor s with
  | .error s' => .next (complete s')
  | .ok s' => .next (complete (compareClaim (checksumPayload s')))

/-- `NOP`, R173: nothing but completion. -/
def execNop (s : State) : Host.Outcome State Fault Refusal := .next (complete s)

/-- The assignments of `CLEAR` (R174). `PAYLOAD` becomes unspecified (log 6). -/
def clearState (s : State) : State :=
  { s with
    result := ⟨.noOutcome, false, .noDetail⟩
    errInfo := 0
    acc := crcSeed.setWidth 24
    claimed := 0
    textLen := 0
    payLen := 0
    segCount := 0
    seg0 := 0
    seg1 := 0
    cmdErr := false
    ovr := false
    lenErr := false
    payload := []
    payEra := s.payEra + 1 }

/-- `CLEAR`, R174. -/
def execClear (s : State) : Host.Outcome State Fault Refusal := .next (complete (clearState s))

end Sys2Proof.Machine
end

