-- ==== Sys2Proof/Machine/Dispatch.lean ====
section
/-! DEFINITION. Machine/Dispatch.lean: one arm per command; each names its meaning. -/

namespace Sys2Proof.Machine

/-- Execute a command by its rule, completion included (60_exceptions.md R204). -/
def exec (i : Instr) (s : State) : Host.Outcome State Fault Refusal :=
  match i with
  | .nop => Sys2Proof.Machine.execNop s
  | .crcInit => Sys2Proof.Machine.execCrcInit s
  | .crcByte b => Sys2Proof.Machine.execCrcByte b s
  | .crcText => Sys2Proof.Machine.execCrcText s
  | .crcPay => Sys2Proof.Machine.execCrcPay s
  | .crcCheck => Sys2Proof.Machine.execCrcCheck s
  | .armSplit => Sys2Proof.Machine.execArmSplit s
  | .armDecode => Sys2Proof.Machine.execArmDecode s
  | .armValidate => Sys2Proof.Machine.execArmValidate s
  | .clear => Sys2Proof.Machine.execClear s

end Sys2Proof.Machine
end

