-- ==== Sys2Proof/Machine/Engine.lean ====
section
/-! DEFINITION. Machine/Engine.lean: the engine step of 60_exceptions.md R204, the turns of the three agents (10_state.md R20, 20_memory.md R74), and how a command is put before the engine. -/

namespace Sys2Proof.Machine

/-- Run the word `w`: decode it when it executes, not when it is accepted (R94, R204). -/
def engineRun (w : Word) (s : State) : Host.Outcome State Fault Refusal :=
  match decode w with
  | .ok i => exec i s
  | .error _ => .next (illegalCommand s)

/-- The engine's turn: its step is enabled exactly when a command is pending (R204); an idle engine holds its state
(R210; log 14). -/
def engineTurn (s : State) : Host.Outcome State Fault Refusal :=
  match s.pending with
  | some w => engineRun w s
  | none => .next s

/-- One turn. -/
def takeTurn (t : Turn) (s : State) : Host.Outcome State Fault Refusal :=
  match t with
  | .engine => engineTurn s
  | .read addr n => readTurn addr n s
  | .write addr n v => writeTurn addr n v s
  | .reset => .next (resetMachine s)

/-- The first turn of the agenda; when none is left, the engine's, so that a pending command is eventually executed
(R227; log 1). -/
def nextTurn (s : State) : Host.Outcome State Fault Refusal :=
  match s.agenda with
  | t :: rest => takeTurn t { s with agenda := rest }
  | [] => engineTurn s

/-- Put the command word of an opcode-table row before the engine, which moves next (log 12). -/
def loadCommand (nbits w : Nat) (s : State) : State :=
  { s with
    pending := tableWord nbits w
    agenda := .engine :: s.agenda }

end Sys2Proof.Machine
end

