-- ==== Sys2Proof/Machine/Step.lean ====
section
/-! DEFINITION. Machine/Step.lean: one transition of the machine, and the state in which a given command is the next to run. -/

namespace Sys2Proof.Machine

/-- One transition: the next turn of the host, the engine or the reset input (R20, R74). -/
def step (s : State) : Host.Outcome State Fault Refusal := nextTurn s

/-- `s` with the command of an opcode-table row pending and the engine to move next (log 12). -/
def State.withFetchWord (s : State) (nbits w : Nat) : State := loadCommand nbits w s

end Sys2Proof.Machine
end

