-- ==== Sys2Proof/Machine/Asm.lean ====
section
/-! DEFINITION. Machine/Asm.lean: the assembler of 30_encoding.md R97 to R99: lines of the host access language as turns of the agenda. -/

namespace Sys2Proof.Machine

/-- The offset an `OFF` names (R98). -/
def HostOff.offset : HostOff → Nat
  | .num n => n
  | .reg r => r.offset
  | .text i => 0x4000 + i
  | .pay i => 0x8000 + i

/-- The host store of a value at an offset of the instance (R60, R98). -/
def store (c : Config) (o : HostOff) (n : Width) (v : Word) : Turn := .write (c.base + o.offset) n v

/-- The host load of an offset of the instance (R60, R98). -/
def load (c : Config) (o : HostOff) (n : Width) : Turn := .read (c.base + o.offset) n

/-- A command mnemonic assembles to `sw CMD, word` (R97). -/
def submit (c : Config) (w : Word) : Turn := store c (.reg .cmd) .word w

/-- `wait` (R99), unrolled: `polls` reads of `STATUS` before the engine moves, then the read that ends the loop
(log 15). -/
def waitTurns (c : Config) (polls : Nat) : List Turn :=
  List.replicate polls (load c (.reg .status) .word) ++ [.engine, load c (.reg .status) .word]

/-- `run X` (R99). -/
def runTurns (c : Config) (i : Instr) (polls : Nat) : List Turn := submit c (encode i) :: waitTurns c polls

/-- `sb TEXT+i, s[i]` for each octet, from index `i` (R99). -/
def textTurns (c : Config) : Nat → List Byte → List Turn
  | _, [] => []
  | i, b :: bs => store c (.text i) .byte (b.setWidth 32) :: textTurns c (i + 1) bs

/-- The turns of a well-formed line (R97 to R99). -/
def HostLine.turns (c : Config) : HostLine → List Turn
  | .sw o v => [store c o .word (BitVec.ofNat 32 v)]
  | .sh o v => [store c o .half (BitVec.ofNat 32 v)]
  | .sb o v => [store c o .byte (BitVec.ofNat 32 v)]
  | .lw o => [load c o .word]
  | .lh o => [load c o .half]
  | .lb o => [load c o .byte]
  | .command i => [submit c (encode i)]
  | .crcByte b => [submit c (encode (.crcByte (BitVec.ofNat 8 b)))]
  | .wait polls => waitTurns c polls
  | .run i polls => runTurns c i polls
  | .text s => textTurns c 0 s ++ [store c (.reg .textLen) .word (BitVec.ofNat 32 s.length)]
  | .crcBytes bs polls => bs.flatMap (fun b => runTurns c (.crcByte b) polls)
  | .setacc v => [store c (.reg .acc) .word (BitVec.ofNat 32 v)]
  | .setclaim v => [store c (.reg .claimed) .word (BitVec.ofNat 32 v)]
  | .ack => [store c (.reg .status) .word 0x0000001E#32]

/-- Assemble a line; an ill-formed one is refused (R97, R98). -/
def HostLine.assemble (c : Config) (l : HostLine) : Option (List Turn) :=
  if l.wf then some (l.turns c) else none

/-- Assemble a host program, a list of lines (R98); one ill-formed line refuses it. -/
def assembleProgram (c : Config) : List HostLine → Option (List Turn)
  | [] => some []
  | l :: ls =>
    match l.assemble c, assembleProgram c ls with
    | some ts, some rest => some (ts ++ rest)
    | _, _ => none

end Sys2Proof.Machine
end

