-- ==== Sys2Proof/Safety.lean ====
section
/-! DEFINITION. Safety.lean: the terms claims are stated in: the invariant of 10_state.md R42, a safe run, the registers as a host reads them, what a host can see, and the base64 encoding and armored text the round-trip property of 40_armor.md R122 speaks of. -/

namespace Sys2Proof.Machine

/-! ### The invariant -/

/-- The parts of R42 that the types do not already hold, the legal parameters (R8), the canonical form of the two
buffers within their capacities (R38, R39), `BUSY = 1` with `DONE = 0` (R204, R224), and: only a recorded `OK` shows a
payload (R196), all of whose octets a command has stored (R39: what is unspecified is unobservable). -/
structure State.Inv (s : State) : Prop where
  cfg_wf : s.cfg.WF
  textLen_le : s.textLen.toNat ≤ s.cfg.textCap
  payLen_le : s.payLen.toNat ≤ s.cfg.payCap
  detail_only_decoding : s.result.kind ≠ .decoding → s.result.seg = false ∧ s.result.detail = .noDetail
  errInfo_top : s.errInfo.extractLsb' 24 8 = 0
  text_wf : s.text.wf
  text_below : ∀ x ∈ s.text, x.1 < s.cfg.textCap
  payload_wf : s.payload.wf
  payload_below : ∀ x ∈ s.payload, x.1 < s.cfg.payCap
  payload_stored : ∀ i < s.payLen.toNat, (s.payload.lookup i).isSome
  payload_only_ok : s.result.kind ≠ .ok → s.payLen = 0
  busy_not_done : s.pending.isSome → s.done = false

/-! ### Safe runs -/

/-- The turn reaches the engine: a host access lies inside the instance's window (R60). -/
def Turn.reaches (c : Config) : Turn → Bool
  | .engine => true
  | .read addr _ => (offsetOf c addr).isSome
  | .write addr _ _ => (offsetOf c addr).isSome
  | .reset => true

/-- Every turn still to come reaches the engine: what a safe run asks of the host. -/
def State.agendaReaches (s : State) : Prop := ∀ t ∈ s.agenda, t.reaches s.cfg = true

/-! ### Frames and outcomes of a command -/

/-- Completion left its marks (R204): `DONE = 1` and no command pending. -/
structure State.Completed (t : State) : Prop where
  done : t.done = true
  idle : t.pending = none

/-- What no command changes but `CLEAR`, which changes `TEXT_LEN` and the sticky flags of these: the parameters, `CTRL`,
the sticky flags, the text and its length (R25, R38, R196), and the model's own record of the world outside. Memory is
compared octet by octet. -/
structure State.KeepsInputs (s t : State) : Prop where
  cfg : t.cfg = s.cfg
  ie : t.ie = s.ie
  cmdErr : t.cmdErr = s.cmdErr
  ovr : t.ovr = s.ovr
  lenErr : t.lenErr = s.lenErr
  textLen : t.textLen = s.textLen
  text : ∀ i, textOctet t i = textOctet s i
  agenda : t.agenda = s.agenda
  responses : t.responses = s.responses
  draws : t.draws = s.draws

/-- What no command that writes no outcome and no split changes (R28): the outcome, its detail, the claim, the split
diagnostics and the payload. -/
structure State.KeepsOutcome (s t : State) : Prop where
  result : t.result = s.result
  errInfo : t.errInfo = s.errInfo
  claimed : t.claimed = s.claimed
  payLen : t.payLen = s.payLen
  segCount : t.segCount = s.segCount
  seg0 : t.seg0 = s.seg0
  seg1 : t.seg1 = s.seg1
  payload : ∀ i, payloadOctet t i = payloadOctet s i

/-- The split of the text is recorded (R112). -/
structure State.RecordsSplit (s t : State) : Prop where
  count : t.segCount = BitVec.ofNat 32 (split (textOperand s)).length
  seg0 : t.seg0 = segWordAt (split (textOperand s)) 0
  seg1 : t.seg1 = segWordAt (split (textOperand s)) 1

/-- The command that led from `s` to `t` ended in a structural, decoding or format error with that record (R196). -/
structure State.FailedWith (s t : State) (r : ResultReg) (info : Word) : Prop where
  completed : t.Completed
  inputs : s.KeepsInputs t
  split : s.RecordsSplit t
  result : t.result = r
  errInfo : t.errInfo = info
  acc : t.acc = s.acc
  claimed : t.claimed = 0
  payLen : t.payLen = 0

/-- Host reads one after another. -/
def readAll : List (Offset × Width) → State → State
  | [], s => s
  | (off, n) :: rs, s => readAll rs (hostRead off n s)

/-! ### The registers, as a host reads them -/

/-- The register map of R61 with each register's read value, bit by bit as R24 to R37 lay it out; `KIND` and `DETAIL` by
the numbers of R28. -/
def State.registers (s : State) : List (Offset × Word) :=
  [(0x000#16, 0x43323401#32),
   (0x004#16, 0#31 ++ BitVec.ofBool s.ie),
   (0x008#16, 0#32),
   (0x00C#16, 0#27 ++ BitVec.ofBool s.lenErr ++ BitVec.ofBool s.ovr ++ BitVec.ofBool s.cmdErr ++
      BitVec.ofBool s.done ++ BitVec.ofBool s.pending.isSome),
   (0x010#16, 0#26 ++
      BitVec.ofNat 2 ([Detail.noDetail, .invalidSymbol, .invalidLength, .invalidLastSymbol].idxOf s.result.detail) ++
      BitVec.ofBool s.result.seg ++
      BitVec.ofNat 3 ([Kind.noOutcome, .ok, .structural, .decoding, .checksumFormat, .checksumMismatch].idxOf
        s.result.kind)),
   (0x014#16, s.errInfo),
   (0x018#16, 0#8 ++ s.acc),
   (0x01C#16, 0#8 ++ s.claimed),
   (0x020#16, s.textLen),
   (0x024#16, s.payLen),
   (0x028#16, s.segCount),
   (0x02C#16, s.seg0),
   (0x030#16, s.seg1),
   (0x034#16, BitVec.ofNat 16 s.cfg.textCap ++ BitVec.ofNat 16 s.cfg.textCap)]

/-- The `n` octets of a register's value from its octet `k` up (R64, R65). -/
def subWord (n : Width) (k : Nat) (v : Word) : Word := BitVec.ofNat 32 (v.toNat / 2 ^ (8 * k) % 2 ^ (8 * n.bytes))

/-! ### What a host can see -/

/-- The result registers and the visible payload, as R171 lists them. -/
structure Visible where
  result : ResultReg
  errInfo : Word
  acc : Word24
  claimed : Word24
  payLen : Word
  segCount : Word
  seg0 : Word
  seg1 : Word
  payload : List Byte
  deriving DecidableEq, Repr

/-- What R171 compares. -/
def State.visible (s : State) : Visible :=
  ⟨s.result, s.errInfo, s.acc, s.claimed, s.payLen, s.segCount, s.seg0, s.seg1, payOperand s⟩

/-! ### Base64 encoding and armored text (R122) -/

/-- The symbol of a value: the alphabet of R113 read the other way. -/
def b64Symbol (v : BitVec 6) : Byte :=
  let n := v.toNat
  if n < 26 then BitVec.ofNat 8 (n + 0x41)
  else if n < 52 then BitVec.ofNat 8 (n + 0x47)
  else if n < 62 then BitVec.ofNat 8 (n - 4)
  else if n = 62 then 0x2B#8
  else 0x2F#8

/-- The symbols of a byte sequence, without padding: three bytes give four symbols, most significant bits first; a final
group of 1 or 2 bytes gives 2 or 3 symbols whose unused low bits are 0. -/
def b64Encode : List Byte → List Byte
  | a :: b :: c :: rest =>
    let q : BitVec 24 := a ++ b ++ c
    b64Symbol (q.extractLsb' 18 6) :: b64Symbol (q.extractLsb' 12 6) :: b64Symbol (q.extractLsb' 6 6) ::
      b64Symbol (q.extractLsb' 0 6) :: b64Encode rest
  | [a, b] =>
    let q : BitVec 24 := a ++ b ++ 0#8
    [b64Symbol (q.extractLsb' 18 6), b64Symbol (q.extractLsb' 12 6), b64Symbol (q.extractLsb' 6 6)]
  | [a] =>
    let q : BitVec 24 := a ++ 0#16
    [b64Symbol (q.extractLsb' 18 6), b64Symbol (q.extractLsb' 12 6)]
  | [] => []

/-- The standard padded encoding: `=` up to a multiple of four symbols. -/
def b64Padded (d : List Byte) : List Byte :=
  b64Encode d ++ List.replicate ((3 - d.length % 3) % 3) delimiter

/-- The three big-endian bytes of a 24-bit value. -/
def bigEndian24 (v : Word) : List Byte := [v.extractLsb' 16 8, v.extractLsb' 8 8, v.extractLsb' 0 8]

/-- The armored text of `d`: `enc(d) ++ "=" ++ enc(k) ++ "="` with `k` the bytes of `crc24(d)` (R122). -/
def armoredText (d : List Byte) : List Byte :=
  b64Padded d ++ [delimiter] ++ b64Padded (bigEndian24 (crc24 d)) ++ [delimiter]

end Sys2Proof.Machine
end

