-- ==== Sys2Proof/Certificates/Slice0/Obligations.lean ====
section
/-! DEFINITION. Certificates/Slice0/Obligations.lean: the statements for the provers. -/

open Sys2Proof Sys2Proof.Machine

/-! ### Encoding -/

/-- Decode and encode agree: a word decodes to a command exactly when it is that command's word. -/
def Obligations.DecodeIffEncoded : Prop :=
  ∀ (w : Word) (i : Instr), decode w = .ok i ↔ encode i = w

/-- The table of R93: a word selects the row of `match` and `mask` exactly when it decodes to the row's command. -/
def Obligations.OpcodeRowsSelect : Prop :=
  ∀ row ∈ ([(0x00000000#32, 0xFFFFFFFF#32, fun _ => .nop), (0x00000001#32, 0xFFFFFFFF#32, fun _ => .crcInit),
      (0x00000002#32, 0xFFFF00FF#32, fun b => .crcByte b), (0x00000003#32, 0xFFFFFFFF#32, fun _ => .crcText),
      (0x00000004#32, 0xFFFFFFFF#32, fun _ => .crcPay), (0x00000005#32, 0xFFFFFFFF#32, fun _ => .crcCheck),
      (0x00000006#32, 0xFFFFFFFF#32, fun _ => .armSplit), (0x00000007#32, 0xFFFFFFFF#32, fun _ => .armDecode),
      (0x00000008#32, 0xFFFFFFFF#32, fun _ => .armValidate), (0x00000009#32, 0xFFFFFFFF#32, fun _ => .clear)] :
      List (Word × Word × (Byte → Instr))),
    ∀ w : Word, w &&& row.2.1 = row.1 ↔ decode w = .ok (row.2.2 (w.extractLsb' 8 8))

/-- R95: the three classes of illegal words, no others, and what an illegal word does when it executes. -/
def Obligations.IllegalWordsSetCmderr : Prop :=
  ∀ (w : Word) (s : State),
    ((∃ c, decode w = .error c) ↔
      0x0A ≤ (w.extractLsb' 0 8).toNat ∨
      (w.extractLsb' 0 8 = 0x02#8 ∧ w.extractLsb' 16 16 ≠ 0) ∨
      (w.extractLsb' 0 8 ≠ 0x02#8 ∧ (w.extractLsb' 0 8).toNat ≤ 0x09 ∧ w.extractLsb' 8 24 ≠ 0)) ∧
    ((∃ c, decode w = .error c) →
      engineRun w s = .next { s with cmdErr := true, done := true, pending := none })

/-- Words written out from the encodings of the opcode table (the names of the illegal classes: log 17). -/
def Obligations.TableWordsDecode : Prop :=
  decode 0b00000000000000000000000000000000#32 = .ok .nop ∧
  decode 0b00000000000000000100000100000010#32 = .ok (.crcByte 0x41#8) ∧
  decode 0b00000000000000000000000000000110#32 = .ok .armSplit ∧
  decode 0b00000000000000000000000000001000#32 = .ok .armValidate ∧
  decode 0b00000000000000010000000000000010#32 = .error .crcByteReserved ∧
  decode 0b00000000000000000000000100000001#32 = .error .operandBitsSet ∧
  decode 0b00000000000000000000000000001010#32 = .error .undefinedOpcode

/-- R97: each mnemonic assembles to the 4-byte store of its word to `CMD`; `crc.byte` with `B > 255` is refused. -/
def Obligations.CommandSyntaxAssembles : Prop :=
  ∀ c : Config,
    (∀ p ∈ ([(.nop, 0x00000000#32), (.crcInit, 0x00000001#32), (.crcText, 0x00000003#32), (.crcPay, 0x00000004#32),
        (.crcCheck, 0x00000005#32), (.armSplit, 0x00000006#32), (.armDecode, 0x00000007#32),
        (.armValidate, 0x00000008#32), (.clear, 0x00000009#32)] : List (Instr × Word)),
      (HostLine.command p.1).assemble c = some [.write (c.base + 0x008) .word p.2]) ∧
    (∀ b : Nat, b ≤ 255 →
      (HostLine.crcByte b).assemble c =
        some [.write (c.base + 0x008) .word (0x00000002#32 ||| (BitVec.ofNat 32 b <<< 8))]) ∧
    (∀ b : Nat, 255 < b → (HostLine.crcByte b).assemble c = none)

/-! ### One transition -/

/-- R204: the engine step is enabled exactly when a word is pending; it then runs the decoded command whole, or the
illegal-command outcome, at the state without the turn it took; an idle engine holds its state (log 14). The agenda is the
model's choice (log 1); `exec` includes the completion (log 19). The last clause is about `withFetchWord`, the model's own
way to place a command (log 12). -/
def Obligations.StepRunsDecodedCommand : Prop :=
  ∀ s : State,
    (∀ w i, s.pending = some w → decode w = .ok i →
      (s.agenda = [] → step s = exec i s) ∧
      (∀ rest, s.agenda = .engine :: rest → step s = exec i { s with agenda := rest })) ∧
    (∀ w c, s.pending = some w → decode w = .error c →
      (s.agenda = [] → step s = .next { s with cmdErr := true, done := true, pending := none }) ∧
      (∀ rest, s.agenda = .engine :: rest →
        step s = .next { s with cmdErr := true, done := true, pending := none, agenda := rest })) ∧
    (s.pending = none →
      (s.agenda = [] → step s = .next s) ∧
      (∀ rest, s.agenda = .engine :: rest → step s = .next { s with agenda := rest })) ∧
    (∀ i, step (s.withFetchWord 32 (encode i).toNat) = exec i { s with pending := some (encode i) })

/-- A host turn is one access at the offset its platform address names (R60, R62); outside the window it faults (log 9). -/
def Obligations.HostTurnsReachTheBus : Prop :=
  ∀ (s : State) (rest : List Turn) (off : Offset) (n : Width) (v : Word) (addr : Nat),
    (s.agenda = .read (s.cfg.base + off.toNat) n :: rest →
      step s = .next (hostRead off n { s with agenda := rest })) ∧
    (s.agenda = .write (s.cfg.base + off.toNat) n v :: rest →
      step s = .next (hostWrite off n v { s with agenda := rest })) ∧
    (addr < s.cfg.base ∨ s.cfg.base + 0x10000 ≤ addr →
      (s.agenda = .read addr n :: rest → step s = .fault .outsideWindow) ∧
      (s.agenda = .write addr n v :: rest → step s = .fault .outsideWindow))

/-- R227: a pending command is executed after finitely many turns, at the latest when the agenda is empty (the agenda,
and that the engine moves when it is empty, are the model's choice: log 1); a reset may discard it before. -/
def Obligations.PendingCommandCompletes : Prop :=
  ∀ (s : State) (w : Word), s.pending = some w → s.agendaReaches →
    ∃ k ≤ s.agenda.length + 1, ∃ t : State,
      Sys2Proof.core.run k s = .next t ∧ t.pending = none ∧ (.reset ∉ s.agenda → t.done = true)

/-- R42 and what the buffers' canonical form adds: every transition keeps the invariant. -/
def Obligations.StepKeepsInvariant : Prop :=
  ∀ s t : State, s.Inv → step s = .next t → t.Inv

/-- The reset state of every legal instance meets the invariant, also that of the chosen instance (log 2). -/
def Obligations.ResetMeetsInvariant : Prop :=
  State.reset.Inv ∧ ∀ c : Config, c.WF → (State.resetOf c).Inv

/-- R44, R24, R37: no transition changes the parameters, so `ID` and `CAPS` read their constants after it, a command
pending or not. -/
def Obligations.StepKeepsParameters : Prop :=
  ∀ s t : State, step s = .next t →
    t.cfg = s.cfg ∧
    hostRead 0x000#16 .word t = { t with responses := .data .word 0x43323401#32 :: t.responses } ∧
    hostRead 0x034#16 .word t =
      { t with responses :=
          .data .word (BitVec.ofNat 16 s.cfg.textCap ++ BitVec.ofNat 16 s.cfg.textCap) :: t.responses } ∧
    (s.cfg.WF → (readReg .caps t).toNat = s.cfg.textCap + s.cfg.payCap * 0x10000)

/-! ### CRC-24 -/

/-- R141: the fold in index order, the seed, the mask, and the range of the result. -/
def Obligations.Crc24FoldsInOrder : Prop :=
  (∀ a : Word, crcFrom a [] = a) ∧
  (∀ (a : Word) (s : List Byte) (b : Byte), crcFrom a (s ++ [b]) = crcStep (crcFrom a s) b) ∧
  (∀ s : List Byte, crc24 s = crcFrom 0x00B704CE#32 s &&& 0x00FFFFFF#32 ∧ (crc24 s).toNat ≤ 0xFFFFFF) ∧
  crc24 [] = 0x00B704CE#32

/-- R142: from a 24-bit accumulator no shift reaches bit 25 and no round leaves a bit above 23, so the final mask changes
nothing. -/
def Obligations.CrcStaysBelow24Bits : Prop :=
  ∀ (acc : Word) (b : Byte), acc.toNat < 2 ^ 24 →
    (acc ^^^ (immWord b <<< 16)).toNat < 2 ^ 24 ∧
    (∀ k < 8, (crcShifts k (acc ^^^ (immWord b <<< 16)) <<< 1).toNat < 2 ^ 25) ∧
    (∀ k ≤ 8, (crcShifts k (acc ^^^ (immWord b <<< 16))).toNat < 2 ^ 24) ∧
    (∀ s : List Byte, (crcFrom acc s).toNat < 2 ^ 24 ∧ crcFrom acc s &&& 0x00FFFFFF#32 = crcFrom acc s)

/-- R143: the step takes the byte's bits one at a time, bit 7 first, each against the accumulator's top bit, with no
reflection: it equals the bit-serial division of a 24-bit register. -/
def Obligations.CrcStepIsMsbFirst : Prop :=
  ∀ (acc : Word24) (b : Byte),
    crcStep (acc.setWidth 32) b =
      ([7, 6, 5, 4, 3, 2, 1, 0].foldl
        (fun (a : Word24) (k : Nat) =>
          if a.getLsbD 23 != b.getLsbD k then (a <<< 1) ^^^ 0x864CFB#24 else a <<< 1) acc).setWidth 32

/-- R150: chunks give the same accumulator as one run, also when `ACC` is stored in 24 bits and restored between them. -/
def Obligations.CrcChunking : Prop :=
  ∀ (a : Word24) (s t : List Byte),
    crcFrom (crcFrom (a.setWidth 32) s) t = crcFrom (a.setWidth 32) (s ++ t) ∧
    (∀ k, (crcFrom (a.setWidth 32) ((s ++ t).take k)).toNat < 2 ^ 24) ∧
    (∀ u : State, u.acc = a →
      foldIntoAcc t (setAcc ((foldIntoAcc s u).acc.setWidth 32) u) = foldIntoAcc (s ++ t) u)

/-- R151: a single flipped bit of a non-empty sequence changes its CRC-24. -/
def Obligations.SingleBitErrorChangesCrc : Prop :=
  ∀ (d : List Byte) (i j : Nat) (h : i < d.length), j < 8 →
    crc24 (d.set i (d[i] ^^^ (1#8 <<< j))) ≠ crc24 d

/-- R144: the seed, from every state; right after reset, where `ACC` holds the seed already, only the completion is
new. -/
def Obligations.CrcInitSeedsAcc : Prop :=
  encode .crcInit = 0x00000001#32 ∧
  (∀ s : State, exec .crcInit s = .next { s with acc := 0xB704CE#24, done := true, pending := none }) ∧
  (∀ s : State, (resetMachine s).acc = 0xB704CE#24 ∧
    exec .crcInit (resetMachine s) = .next { resetMachine s with done := true })

/-- R145: the step on the immediate octet, and the rule's corner cases; a word with `RSV ≠ 0` is illegal and leaves `ACC`
unchanged. -/
def Obligations.CrcByteFoldsOneByte : Prop :=
  (∀ (b : Byte) (s : State),
    exec (.crcByte b) s =
      .next { s with acc := (crcStep (s.acc.setWidth 32) b).setWidth 24, done := true, pending := none }) ∧
  (∀ (w : Word) (s : State), w.extractLsb' 0 8 = 0x02#8 →
    (w.extractLsb' 16 16 = 0 → engineRun w s = exec (.crcByte (w.extractLsb' 8 8)) s) ∧
    (w.extractLsb' 16 16 ≠ 0 → ∃ t, engineRun w s = .next t ∧ t.cmdErr = true ∧ t.acc = s.acc)) ∧
  crcStep 0x000000#32 0x00#8 = 0x000000#32 ∧ crcStep 0xB704CE#32 0x00#8 = 0x6169D3#32 ∧
  crcStep 0x000000#32 0x01#8 = 0x864CFB#32 ∧ crcStep 0xFFFFFF#32 0xFF#8 = 0xFFFF00#32 ∧
  crcStep 0xB704CE#32 0x41#8 = 0xFE86FA#32

/-- R146: every octet of the text, from the current `ACC`. -/
def Obligations.CrcTextFoldsRawText : Prop :=
  encode .crcText = 0x00000003#32 ∧
  ∀ s : State,
    exec .crcText s =
      .next { s with
        acc := (((List.range s.textLen.toNat).map (textOctet s)).foldl crcStep (s.acc.setWidth 32)).setWidth 24
        done := true
        pending := none } ∧
    (s.textLen = 0 → exec .crcText s = .next { s with done := true, pending := none })

/-- R147: the payload, from the current `ACC`. -/
def Obligations.CrcPayFoldsPayload : Prop :=
  encode .crcPay = 0x00000004#32 ∧
  ∀ s : State,
    exec .crcPay s =
      .next { s with
        acc := (((List.range s.payLen.toNat).map (payloadOctet s)).foldl crcStep (s.acc.setWidth 32)).setWidth 24
        done := true
        pending := none } ∧
    (s.payLen = 0 → exec .crcPay s = .next { s with done := true, pending := none })

/-- R148 and R149: all 24 bits are compared; a mismatch hides the payload and keeps both values. -/
def Obligations.CrcCheckComparesAllBits : Prop :=
  encode .crcCheck = 0x00000005#32 ∧
  ∀ s : State,
    (s.acc = s.claimed →
      exec .crcCheck s =
        .next { s with result := ⟨.ok, false, .noDetail⟩, errInfo := 0, done := true, pending := none }) ∧
    (s.acc ≠ s.claimed →
      ∃ t, exec .crcCheck s = .next t ∧ t.Completed ∧ s.KeepsInputs t ∧
        t.result = ⟨.checksumMismatch, false, .noDetail⟩ ∧ t.errInfo = 0 ∧ t.payLen = 0 ∧
        t.acc = s.acc ∧ t.claimed = s.claimed ∧
        t.segCount = s.segCount ∧ t.seg0 = s.seg0 ∧ t.seg1 = s.seg1)

/-! ### Splitter and decoder -/

/-- R110: the segments are the non-empty pieces between delimiters, in order. -/
def Obligations.SplitIsNonEmptyPieces : Prop :=
  ∀ t : List Byte,
    (split t).map (fun g => (t.drop g.start).take g.len) = (t.splitOnP (· == 0x3D#8)).filter (fun p => !p.isEmpty) ∧
    (∀ g ∈ split t, 1 ≤ g.len ∧ g.start + g.len ≤ t.length ∧
      (g.start = 0 ∨ t[g.start - 1]? = some 0x3D#8) ∧
      (g.start + g.len = t.length ∨ t[g.start + g.len]? = some 0x3D#8)) ∧
    (split t).Pairwise (fun g h => g.start + g.len < h.start)

/-- R112: every command that splits records the split before it checks it, and both fields fit for every legal capacity. -/
def Obligations.SplitRecordFits : Prop :=
  ∀ (s : State) (i : Instr), i = .armSplit ∨ i = .armDecode ∨ i = .armValidate → s.textLen.toNat ≤ 16384 →
    ∃ t, exec i s = .next t ∧
      t.segCount.toNat = (split (textOperand s)).length ∧
      ((split (textOperand s))[0]? = none → t.seg0 = 0) ∧
      ((split (textOperand s))[1]? = none → t.seg1 = 0) ∧
      (∀ g, (split (textOperand s))[0]? = some g →
        t.seg0 = (BitVec.ofNat 16 g.len) ++ (BitVec.ofNat 16 g.start) ∧ g.start < 16384 ∧ g.len ≤ 16384) ∧
      (∀ g, (split (textOperand s))[1]? = some g →
        t.seg1 = (BitVec.ofNat 16 g.len) ++ (BitVec.ofNat 16 g.start) ∧ g.start < 16384 ∧ g.len ≤ 16384)

/-- R119: `SPLIT` completes in every state; `OK` exactly for two segments, and then the payload, its length, the claim and
`ACC` stay. -/
def Obligations.SplitCommandChecksCount : Prop :=
  encode .armSplit = 0x00000006#32 ∧
  ∀ s : State, ∃ t, exec .armSplit s = .next t ∧ t.Completed ∧ s.KeepsInputs t ∧ s.RecordsSplit t ∧ t.acc = s.acc ∧
    ((split (textOperand s)).length = 2 →
      t.result = ⟨.ok, false, .noDetail⟩ ∧ t.errInfo = 0 ∧ t.payLen = s.payLen ∧ t.claimed = s.claimed ∧
      ∀ i, payloadOctet t i = payloadOctet s i) ∧
    ((split (textOperand s)).length ≠ 2 →
      t.result = ⟨.structural, false, .noDetail⟩ ∧
      t.errInfo = BitVec.ofNat 32 (split (textOperand s)).length ∧ t.payLen = 0 ∧ t.claimed = 0)

/-- R121: no segment holds a delimiter; so padding never reaches the decoder, and any number of delimiters between two
segments gives the same two decodes as one does. -/
def Obligations.NoDelimiterInSegments : Prop :=
  (∀ t : List Byte, ∀ g ∈ split t, ∀ k < g.len, ∃ o, t[g.start + k]? = some o ∧ o ≠ 0x3D#8) ∧
  (∀ (c : Config) (a b : List Byte) (k : Nat), 0x3D#8 ∉ a → 0x3D#8 ∉ b → a ≠ [] → b ≠ [] →
    split (a ++ List.replicate (k + 1) 0x3D#8 ++ b) = [⟨0, a.length⟩, ⟨a.length + (k + 1), b.length⟩] ∧
    b64Decode c (a ++ List.replicate (k + 1) 0x3D#8 ++ b) ⟨0, a.length⟩ = b64Decode c a ⟨0, a.length⟩ ∧
    (∀ out, b64Decode c (a ++ List.replicate (k + 1) 0x3D#8 ++ b) ⟨a.length + (k + 1), b.length⟩ = .ok out ↔
      b64Decode c b ⟨0, b.length⟩ = .ok out))

/-- R113: the alphabet table. -/
def Obligations.Base64Alphabet : Prop :=
  ∀ o : Byte,
    (0x41 ≤ o.toNat ∧ o.toNat ≤ 0x5A → b64Val o = some ((o - 0x41#8).setWidth 6)) ∧
    (0x61 ≤ o.toNat ∧ o.toNat ≤ 0x7A → b64Val o = some ((o - 0x47#8).setWidth 6)) ∧
    (0x30 ≤ o.toNat ∧ o.toNat ≤ 0x39 → b64Val o = some ((o + 4#8).setWidth 6)) ∧
    (o = 0x2B#8 → b64Val o = some 62#6) ∧ (o = 0x2F#8 → b64Val o = some 63#6) ∧
    (b64Val o = none ↔ ¬(0x41 ≤ o.toNat ∧ o.toNat ≤ 0x5A) ∧ ¬(0x61 ≤ o.toNat ∧ o.toNat ≤ 0x7A) ∧
      ¬(0x30 ≤ o.toNat ∧ o.toNat ≤ 0x39) ∧ o ≠ 0x2B#8 ∧ o ≠ 0x2F#8)

/-- R114: the first failing check decides: the lowest-offset octet outside the alphabet, then the length, then the last
symbol's unused bits; otherwise the segment decodes. -/
def Obligations.Base64CheckOrder : Prop :=
  ∀ (c : Config) (t : List Byte) (g : Seg), c.SpecRule → 1 ≤ g.len → (h : g.start + g.len ≤ t.length) →
    (∀ (k : Nat) (hk : k < g.len), (∀ j < k, ∀ o, t[g.start + j]? = some o → b64Val o ≠ none) →
      b64Val t[g.start + k] = none → b64Decode c t g = .error ⟨.invalidSymbol, g.start + k, t[g.start + k]⟩) ∧
    ((∀ j < g.len, ∀ o, t[g.start + j]? = some o → b64Val o ≠ none) →
      ∀ (last : Byte) (v : BitVec 6), t[g.start + g.len - 1]? = some last → b64Val last = some v →
        (g.len % 4 = 1 → b64Decode c t g = .error ⟨.invalidLength, g.start + g.len - 1, last⟩) ∧
        ((g.len % 4 = 2 ∧ v &&& 0x0F#6 ≠ 0) ∨ (g.len % 4 = 3 ∧ v &&& 0x03#6 ≠ 0) →
          b64Decode c t g = .error ⟨.invalidLastSymbol, g.start + g.len - 1, last⟩) ∧
        (g.len % 4 = 0 ∨ (g.len % 4 = 2 ∧ v &&& 0x0F#6 = 0) ∨ (g.len % 4 = 3 ∧ v &&& 0x03#6 = 0) →
          ∃ out, b64Decode c t g = .ok out))

/-- R115: the decoded length of a segment. Where the instance skips whitespace (U15) the formula counts other octets;
that no segment decodes to zero bytes, or to more than it has octets, holds there too. -/
def Obligations.Base64DecodedLength : Prop :=
  ∀ (c : Config) (t out : List Byte) (g : Seg), 1 ≤ g.len → g.start + g.len ≤ t.length → b64Decode c t g = .ok out →
    1 ≤ out.length ∧ out.length ≤ g.len ∧
    (c.skipWhitespace = false →
      out.length = 3 * (g.len / 4) + (if g.len % 4 = 2 then 1 else if g.len % 4 = 3 then 2 else 0) ∧
      (out.length = 3 ↔ g.len = 4))

/-- Only canonical encodings decode (92 D6): a segment that decodes to `out` is the unpadded base64 encoding of `out`. -/
def Obligations.OnlyCanonicalBase64Decodes : Prop :=
  ∀ (c : Config) (t out : List Byte) (g : Seg), c.SpecRule → 1 ≤ g.len → g.start + g.len ≤ t.length →
    (b64Decode c t g = .ok out ↔ (t.drop g.start).take g.len = b64Encode out)

/-- R122: the round trip, for every non-empty byte sequence, through `DECODE` and through `VALIDATE`. -/
def Obligations.ArmorRoundTrip : Prop :=
  ∀ (d : List Byte) (s : State), d ≠ [] → textOperand s = armoredText d →
    (∃ t, exec .armDecode s = .next t ∧ t.result.kind = .ok ∧ payOperand t = d ∧
      t.claimed.setWidth 32 = crc24 d) ∧
    (∃ t, exec .armValidate s = .next t ∧ t.result.kind = .ok ∧ payOperand t = d)

/-! ### Outcomes of DECODE and VALIDATE -/

/-- R192: what the three splitting commands record when the count is not two; the count is at most 8192. -/
def Obligations.StructuralErrorOutcome : Prop :=
  ∀ (s : State) (i : Instr), i = .armSplit ∨ i = .armDecode ∨ i = .armValidate →
    (split (textOperand s)).length ≠ 2 →
    (∃ t, exec i s = .next t ∧
      s.FailedWith t ⟨.structural, false, .noDetail⟩ (BitVec.ofNat 32 (split (textOperand s)).length) ∧
      resultWord t.result = 0x00000002#32) ∧
    (s.textLen.toNat ≤ 16384 → (split (textOperand s)).length ≤ 8192)

/-- R193: what is recorded when a segment does not decode, the data segment first. -/
def Obligations.DecodingErrorOutcome : Prop :=
  ∀ (s : State) (i : Instr) (g0 g1 : Seg) (e : DecodeErr), i = .armDecode ∨ i = .armValidate →
    split (textOperand s) = [g0, g1] →
    (b64Decode s.cfg (textOperand s) g0 = .error e →
      ∃ t, exec i s = .next t ∧
        s.FailedWith t ⟨.decoding, false, e.detail⟩ (BitVec.ofNat 32 e.off ||| (e.octet.setWidth 32 <<< 16)) ∧
        resultWord t.result = 0x3#32 ||| (e.detail.code <<< 4)) ∧
    (∀ d, b64Decode s.cfg (textOperand s) g0 = .ok d → b64Decode s.cfg (textOperand s) g1 = .error e →
      ∃ t, exec i s = .next t ∧
        s.FailedWith t ⟨.decoding, true, e.detail⟩ (BitVec.ofNat 32 e.off ||| (e.octet.setWidth 32 <<< 16)) ∧
        resultWord t.result = 0xB#32 ||| (e.detail.code <<< 4))

/-- R194: what is recorded when the checksum segment decodes to another length than 3, and the range of that length. -/
def Obligations.ChecksumFormatOutcome : Prop :=
  ∀ (s : State) (i : Instr) (g0 g1 : Seg) (d c : List Byte), i = .armDecode ∨ i = .armValidate →
    split (textOperand s) = [g0, g1] →
    b64Decode s.cfg (textOperand s) g0 = .ok d → b64Decode s.cfg (textOperand s) g1 = .ok c → c.length ≠ 3 →
    (∃ t, exec i s = .next t ∧
      s.FailedWith t ⟨.checksumFormat, false, .noDetail⟩ (BitVec.ofNat 32 c.length) ∧
      resultWord t.result = 0x00000004#32) ∧
    1 ≤ c.length ∧
    (s.textLen.toNat ≤ 16384 → c.length ≤ 12286)

/-- R118, R120: `DECODE` of a text both of whose segments decode, the second to three bytes. The octets it stores are
`PAYLOAD[0 .. len(d))`; every other octet, and `ACC`, stays. -/
def Obligations.DecodeStoresPayload : Prop :=
  ∀ (s : State) (g0 g1 : Seg) (d : List Byte) (c0 c1 c2 : Byte), split (textOperand s) = [g0, g1] →
    b64Decode s.cfg (textOperand s) g0 = .ok d → b64Decode s.cfg (textOperand s) g1 = .ok [c0, c1, c2] →
    ∃ t, exec .armDecode s = .next t ∧ t.Completed ∧ s.KeepsInputs t ∧ s.RecordsSplit t ∧
      t.result = ⟨.ok, false, .noDetail⟩ ∧ t.errInfo = 0 ∧ t.acc = s.acc ∧
      t.payLen.toNat = d.length ∧ payOperand t = d ∧
      (∀ i, d.length ≤ i → payloadOctet t i = payloadOctet s i) ∧
      t.claimed = c0 ++ c1 ++ c2

/-- R170: `VALIDATE` of such a text: the seeded CRC-24 of the payload against the claim. -/
def Obligations.ValidateComparesChecksum : Prop :=
  ∀ (s : State) (g0 g1 : Seg) (d : List Byte) (c0 c1 c2 : Byte), split (textOperand s) = [g0, g1] →
    b64Decode s.cfg (textOperand s) g0 = .ok d → b64Decode s.cfg (textOperand s) g1 = .ok [c0, c1, c2] →
    ∃ t, exec .armValidate s = .next t ∧ t.Completed ∧ s.KeepsInputs t ∧ s.RecordsSplit t ∧ t.errInfo = 0 ∧
      t.acc.setWidth 32 = crc24 d ∧ t.claimed = c0 ++ c1 ++ c2 ∧
      (crc24 d = (c0 ++ c1 ++ c2 : Word24).setWidth 32 →
        t.result = ⟨.ok, false, .noDetail⟩ ∧ t.payLen.toNat = d.length ∧ payOperand t = d ∧
        ∀ i, d.length ≤ i → payloadOctet t i = payloadOctet s i) ∧
      (crc24 d ≠ (c0 ++ c1 ++ c2 : Word24).setWidth 32 →
        t.result = ⟨.checksumMismatch, false, .noDetail⟩ ∧ t.payLen = 0)

/-- R171: after a `DECODE` that ends `OK`, the commands `CRC_INIT`, `CRC_PAY`, `CRC_CHECK`, with any host reads between,
reach what one `VALIDATE` reaches; after another outcome `VALIDATE` ends in the very state `DECODE` ended in. -/
def Obligations.ValidateIsItsThreeSteps : Prop :=
  ∀ s t : State, exec .armDecode s = .next t →
    (t.result.kind = .ok →
      ∀ r1 r2 r3 : List (Offset × Width), ∃ a b u v : State,
        exec .crcInit (readAll r1 t) = .next a ∧ exec .crcPay (readAll r2 a) = .next b ∧
        exec .crcCheck (readAll r3 b) = .next u ∧ exec .armValidate s = .next v ∧ u.visible = v.visible) ∧
    (t.result.kind ≠ .ok → exec .armValidate s = .next t)

/-- R175: no `OK` with an empty payload after `DECODE` or `VALIDATE`; at the CRC level the empty payload's check is `OK`. -/
def Obligations.NoOkWithEmptyPayload : Prop :=
  (∀ (s t : State) (i : Instr), i = .armDecode ∨ i = .armValidate → exec i s = .next t →
    t.result.kind = .ok → t.payLen ≠ 0) ∧
  (∀ s : State, ∃ t u, exec .crcInit s = .next t ∧
    exec .crcCheck { t with claimed := 0xB704CE#24 } = .next u ∧ u.result.kind = .ok)

/-- R196: no partial result. A command that ends in a failure leaves no payload, and no claim unless it was a mismatch; one
that ends `OK` or in a mismatch leaves `ERR_INFO = 0`. -/
def Obligations.NoPartialResults : Prop :=
  ∀ (s t : State) (i : Instr), i = .crcCheck ∨ i = .armSplit ∨ i = .armDecode ∨ i = .armValidate →
    exec i s = .next t →
    t.result.kind ≠ .noOutcome ∧
    (t.result.kind ≠ .ok → t.payLen = 0 ∧ payOperand t = []) ∧
    (t.result.kind ≠ .ok → t.result.kind ≠ .checksumMismatch → t.claimed = 0 ∧ t.acc = s.acc) ∧
    (t.result.kind = .ok ∨ t.result.kind = .checksumMismatch → t.errInfo = 0) ∧
    (t.result.kind ≠ .decoding → t.result.seg = false ∧ t.result.detail = .noDetail)

/-- R72, R172: `DECODE` and `VALIDATE` depend on nothing but the parameters and `TEXT[0 .. TEXT_LEN)`: not on `ACC`,
`CLAIMED`, an earlier outcome, stale payload or text beyond its length. -/
def Obligations.DecodeDependsOnTextAlone : Prop :=
  ∀ (s1 s2 : State) (i : Instr), i = .armDecode ∨ i = .armValidate → s1.cfg = s2.cfg → s1.textLen = s2.textLen →
    (∀ k < s1.textLen.toNat, textOctet s1 k = textOctet s2 k) →
    ∃ t1 t2, exec i s1 = .next t1 ∧ exec i s2 = .next t2 ∧ t1.result = t2.result ∧ t1.errInfo = t2.errInfo ∧
      t1.claimed = t2.claimed ∧ t1.payLen = t2.payLen ∧ payOperand t1 = payOperand t2 ∧
      t1.segCount = t2.segCount ∧ t1.seg0 = t2.seg0 ∧ t1.seg1 = t2.seg1 ∧
      (i = .armValidate → t1.result.kind = .ok ∨ t1.result.kind = .checksumMismatch → t1.acc = t2.acc)

/-! ### Housekeeping, completion and frames -/

/-- R173: `STATUS.DONE` (and the end of `BUSY`) is all that changes. -/
def Obligations.NopOnlyCompletes : Prop :=
  encode .nop = 0x00000000#32 ∧
  ∀ s : State, exec .nop s = .next { s with done := true, pending := none }

/-- R174: the reset values, and what `CLEAR` keeps: `CTRL` and the octets of TEXT. -/
def Obligations.ClearRestoresResetValues : Prop :=
  encode .clear = 0x00000009#32 ∧
  ∀ s : State, ∃ t, exec .clear s = .next t ∧ t.Completed ∧
    t.result = ⟨.noOutcome, false, .noDetail⟩ ∧ t.errInfo = 0 ∧ t.acc = 0xB704CE#24 ∧ t.claimed = 0 ∧
    t.textLen = 0 ∧ t.payLen = 0 ∧ t.segCount = 0 ∧ t.seg0 = 0 ∧ t.seg1 = 0 ∧
    t.cmdErr = false ∧ t.ovr = false ∧ t.lenErr = false ∧
    t.ie = s.ie ∧ t.cfg = s.cfg ∧ (∀ i, textOctet t i = textOctet s i) ∧
    t.agenda = s.agenda ∧ t.responses = s.responses ∧ t.draws = s.draws

/-- R28, R41: the commands that write no outcome leave every register but `ACC` and every octet of both buffers. -/
def Obligations.CrcCommandsFrame : Prop :=
  ∀ (s : State) (i : Instr), i = .nop ∨ i = .crcInit ∨ (∃ b, i = .crcByte b) ∨ i = .crcText ∨ i = .crcPay →
    ∃ t, exec i s = .next t ∧ t.Completed ∧ s.KeepsInputs t ∧ s.KeepsOutcome t ∧ (i = .nop → t.acc = s.acc)

/-- R204, R190: every command completes in every state; but for `CLEAR`, none changes the parameters, `CTRL`, the sticky
flags, `TEXT_LEN` or an octet of TEXT. -/
def Obligations.EveryCommandCompletes : Prop :=
  ∀ (i : Instr) (s : State), ∃ t, exec i s = .next t ∧ t.Completed ∧ (i ≠ .clear → s.KeepsInputs t)

/-! ### The bus

The answer to an access (R62) is the head of `responses`, in which the model records it (log 8); `draws` counts the volatile
reads (log 4). -/

/-- R202: a misaligned access answers BUS_ERR, whatever it targets, and changes no engine state. -/
def Obligations.MisalignedAccessIsBusError : Prop :=
  ∀ (s : State) (off : Offset) (n : Width) (v : Word), off.toNat % n.bytes ≠ 0 →
    hostRead off n s = { s with responses := .busErr :: s.responses } ∧
    hostWrite off n v s = { s with responses := .busErr :: s.responses }

/-- R64, R65: lanes are little-endian at every aligned offset: a 4-byte read is the four 1-byte reads, the lowest offset in
the low bits; a read of each register, or of some octets of it, answers the value its rule R24 to R37 gives; and a TEXT
write puts `val[8k+7:8k]` at the k-th offset. -/
def Obligations.LanesAreLittleEndian : Prop :=
  (∀ (s : State) (off : Offset), s.busy = false → off.toNat % 4 = 0 →
    ∃ b0 b1 b2 b3 : Byte,
      hostRead off .byte s = respond (.data .byte (b0.setWidth 32)) s ∧
      hostRead (off + 1) .byte s = respond (.data .byte (b1.setWidth 32)) s ∧
      hostRead (off + 2) .byte s = respond (.data .byte (b2.setWidth 32)) s ∧
      hostRead (off + 3) .byte s = respond (.data .byte (b3.setWidth 32)) s ∧
      hostRead off .half s = respond (.data .half ((b1 ++ b0).setWidth 32)) s ∧
      hostRead (off + 2) .half s = respond (.data .half ((b3 ++ b2).setWidth 32)) s ∧
      hostRead off .word s = respond (.data .word (b3 ++ b2 ++ b1 ++ b0)) s) ∧
  (∀ s : State, s.busy = false → ∀ p ∈ s.registers, ∀ (n : Width) (k : Nat), k < 4 → k % n.bytes = 0 →
    hostRead (p.1 + BitVec.ofNat 16 k) n s = { s with responses := .data n (subWord n k p.2) :: s.responses }) ∧
  (∀ (s : State) (i k : Nat) (n : Width) (v : Word), s.busy = false → i < 0x4000 → i % n.bytes = 0 → k < n.bytes →
    i + k < s.cfg.textCap →
    textOctet (hostWrite (BitVec.ofNat 16 (0x4000 + i)) n v s) (i + k) = v.extractLsb' (8 * k) 8)

/-- R65 and the read-only registers (R24, R28, R29, R33 to R37): a sub-word write anywhere in the register region, and a
4-byte write to a read-only register, is answered and does nothing, busy or not. -/
def Obligations.IgnoredRegisterWrites : Prop :=
  ∀ (s : State) (off : Offset) (n : Width) (v : Word), off.toNat < 0x38 → off.toNat % n.bytes = 0 →
    n ≠ .word ∨ off.toNat ∈ [0x000, 0x010, 0x014, 0x024, 0x028, 0x02C, 0x030, 0x034] →
    hostWrite off n v s = { s with responses := .ok :: s.responses }

/-- R66, R69: reserved space reads 0 and ignores writes, also while a command is pending; a misaligned access answers
BUS_ERR there too. -/
def Obligations.ReservedSpaceReadsZero : Prop :=
  ∀ (s : State) (off : Offset) (n : Width) (v : Word),
    (0x38 ≤ off.toNat ∧ off.toNat < 0x4000) ∨ 0xC000 ≤ off.toNat →
    (off.toNat % n.bytes = 0 →
      hostRead off n s = { s with responses := .data n 0 :: s.responses } ∧
      hostWrite off n v s = { s with responses := .ok :: s.responses }) ∧
    (off.toNat % n.bytes ≠ 0 →
      hostRead off n s = { s with responses := .busErr :: s.responses } ∧
      hostWrite off n v s = { s with responses := .busErr :: s.responses })

/-- R67: the TEXT window. A write stores its octets below the capacity and nothing else, or is dropped while a command is
pending; a read is exact at all times and 0 at and above the capacity. -/
def Obligations.TextWindowAccess : Prop :=
  ∀ (s : State) (i : Nat) (n : Width) (v : Word), i < 0x4000 → i % n.bytes = 0 →
    (s.busy = false →
      (∀ j, textOctet (hostWrite (BitVec.ofNat 16 (0x4000 + i)) n v s) j =
        if (i ≤ j ∧ j < i + n.bytes) ∧ j < s.cfg.textCap then v.extractLsb' (8 * (j - i)) 8 else textOctet s j) ∧
      ∃ m, hostWrite (BitVec.ofNat 16 (0x4000 + i)) n v s = { s with text := m, responses := .ok :: s.responses }) ∧
    (s.busy = true →
      hostWrite (BitVec.ofNat 16 (0x4000 + i)) n v s = { s with ovr := true, responses := .ok :: s.responses }) ∧
    (∃ d : Word, hostRead (BitVec.ofNat 16 (0x4000 + i)) n s = { s with responses := .data n d :: s.responses } ∧
      (∀ k < n.bytes, d.extractLsb' (8 * k) 8 = if i + k < s.cfg.textCap then textOctet s (i + k) else 0) ∧
      d.toNat < 2 ^ (8 * n.bytes))

/-- R68: the PAYLOAD window. Only indices below `PAY_LEN` are visible; writes are ignored; a read while a command is
pending returns some value and has no other effect. -/
def Obligations.PayloadWindowAccess : Prop :=
  ∀ (s : State) (i : Nat) (n : Width) (v : Word), i < 0x4000 → i % n.bytes = 0 →
    hostWrite (BitVec.ofNat 16 (0x8000 + i)) n v s = { s with responses := .ok :: s.responses } ∧
    (s.busy = false →
      ∃ d : Word, hostRead (BitVec.ofNat 16 (0x8000 + i)) n s = { s with responses := .data n d :: s.responses } ∧
        (∀ k < n.bytes, d.extractLsb' (8 * k) 8 = if i + k < s.payLen.toNat then payloadOctet s (i + k) else 0) ∧
        d.toNat < 2 ^ (8 * n.bytes)) ∧
    (s.busy = true →
      ∃ d : Word, hostRead (BitVec.ofNat 16 (0x8000 + i)) n s =
        { s with responses := .data n d :: s.responses, draws := s.draws + 1 })

/-- R200: which writes are dropped while a command is pending, that a drop sets `OVR` and nothing else, and that no other
write sets it. -/
def Obligations.BusyDropsWrites : Prop :=
  ∀ (s : State) (off : Offset) (n : Width) (v : Word), s.busy = true → off.toNat % n.bytes = 0 →
    ((n = .word ∧ off.toNat ∈ [0x008, 0x018, 0x01C, 0x020]) ∨ (0x4000 ≤ off.toNat ∧ off.toNat < 0x8000) →
      hostWrite off n v s = { s with ovr := true, responses := .ok :: s.responses }) ∧
    (¬((n = .word ∧ off.toNat ∈ [0x008, 0x018, 0x01C, 0x020]) ∨ (0x4000 ≤ off.toNat ∧ off.toNat < 0x8000)) →
      ((hostWrite off n v s).ovr = true → s.ovr = true) ∧
      (n = .word → off.toNat = 0x004 → (hostWrite off n v s).ie = v.getLsbD 0) ∧
      (n = .word → off.toNat = 0x00C → (hostWrite off n v s).ovr = (s.ovr && !v.getLsbD 3)))

/-- R32, R201: a `TEXT_LEN` write while no command is pending. -/
def Obligations.TextLenWriteChecksCapacity : Prop :=
  ∀ (s : State) (v : Word), s.busy = false →
    (s.cfg.textCap < v.toNat →
      hostWrite 0x020#16 .word v s = { s with lenErr := true, responses := .ok :: s.responses }) ∧
    (v.toNat ≤ s.cfg.textCap →
      hostWrite 0x020#16 .word v s = { s with textLen := v, responses := .ok :: s.responses })

/-- R224: acceptance, of any word, decodable or not. -/
def Obligations.CommandAcceptance : Prop :=
  ∀ (s : State) (w : Word),
    (s.pending = none →
      hostWrite 0x008#16 .word w s = { s with pending := some w, done := false, responses := .ok :: s.responses }) ∧
    (s.pending ≠ none → hostWrite 0x008#16 .word w s = { s with ovr := true, responses := .ok :: s.responses })

/-- R27: the bits of `STATUS`, and write-one-to-clear. -/
def Obligations.StatusWriteOneToClear : Prop :=
  ∀ (s : State) (v : Word),
    (readReg .status s).getLsbD 0 = s.busy ∧ (readReg .status s).getLsbD 1 = s.done ∧
    (readReg .status s).getLsbD 2 = s.cmdErr ∧ (readReg .status s).getLsbD 3 = s.ovr ∧
    (readReg .status s).getLsbD 4 = s.lenErr ∧ (readReg .status s).toNat < 2 ^ 5 ∧
    (∀ k ∈ [1, 2, 3, 4], (readReg .status (hostWrite 0x00C#16 .word v s)).getLsbD k =
      ((readReg .status s).getLsbD k && !v.getLsbD k)) ∧
    (∃ d c o l, hostWrite 0x00C#16 .word v s =
      { s with done := d, cmdErr := c, ovr := o, lenErr := l, responses := .ok :: s.responses })

/-- R30, R31: `ACC` and `CLAIMED` store 24 bits and read back with zeros above them. -/
def Obligations.AccAndClaimedStore24Bits : Prop :=
  ∀ (s : State) (v : Word), s.busy = false →
    hostRead 0x018#16 .word (hostWrite 0x018#16 .word v s) =
      { s with acc := v.setWidth 24, responses := .data .word (v &&& 0x00FFFFFF#32) :: .ok :: s.responses } ∧
    hostRead 0x01C#16 .word (hostWrite 0x01C#16 .word v s) =
      { s with claimed := v.setWidth 24, responses := .data .word (v &&& 0x00FFFFFF#32) :: .ok :: s.responses }

/-- R226: while a command is pending, a read of R226's first list answers the next draw of the free value, cut to `8n` bits
(log 4), whatever the state holds there. Its second list stays exact: `ID`, `CTRL`, `CMD`, `STATUS`, `TEXT_LEN` and `CAPS`
answer the values of their rules, reserved space 0, the TEXT window its octets. No read has another effect. -/
def Obligations.BusyReadsOfResultsAreUnspecified : Prop :=
  ∀ (s : State) (n : Width), s.busy = true →
    (∀ off : Offset, off.toNat % n.bytes = 0 →
      (0x010 ≤ off.toNat ∧ off.toNat < 0x020) ∨ (0x024 ≤ off.toNat ∧ off.toNat < 0x034) ∨
        (0x8000 ≤ off.toNat ∧ off.toNat < 0xC000) →
      hostRead off n s =
        { s with
          responses := .data n (subWord n 0 (Config.volatileRead s.draws)) :: s.responses
          draws := s.draws + 1 }) ∧
    (∀ p ∈ s.registers, p.1 ∈ [0x000#16, 0x004#16, 0x008#16, 0x00C#16, 0x020#16, 0x034#16] →
      ∀ k < 4, k % n.bytes = 0 →
        hostRead (p.1 + BitVec.ofNat 16 k) n s = { s with responses := .data n (subWord n k p.2) :: s.responses }) ∧
    (∀ off : Offset, off.toNat % n.bytes = 0 → (0x38 ≤ off.toNat ∧ off.toNat < 0x4000) ∨ 0xC000 ≤ off.toNat →
      hostRead off n s = { s with responses := .data n 0 :: s.responses }) ∧
    (∀ i < 0x4000, i % n.bytes = 0 →
      ∃ d : Word, hostRead (BitVec.ofNat 16 (0x4000 + i)) n s = { s with responses := .data n d :: s.responses } ∧
        (∀ k < n.bytes, d.extractLsb' (8 * k) 8 = if i + k < s.cfg.textCap then textOctet s (i + k) else 0) ∧
        d.toNat < 2 ^ (8 * n.bytes))

/-- R205: `irq`, and the four ways it is cleared. -/
def Obligations.InterruptOutput : Prop :=
  ∀ (s : State) (v : Word),
    (s.irq = true ↔ s.ie = true ∧ s.done = true) ∧
    (hostWrite 0x004#16 .word v s).ie = v.getLsbD 0 ∧ readReg .ctrl (hostWrite 0x004#16 .word v s) = v &&& 1#32 ∧
    (v.getLsbD 1 = true → (hostWrite 0x00C#16 .word v s).irq = false) ∧
    (v.getLsbD 0 = false → (hostWrite 0x004#16 .word v s).irq = false) ∧
    (s.pending = none → (hostWrite 0x008#16 .word v s).irq = false) ∧
    (resetMachine s).irq = false ∧
    (∀ i, ∃ t, exec i s = .next t ∧ t.irq = s.ie)

/-- R220, R222, R43: reset is one transition to the reset value of every register; a pending command is discarded. The
values of TEXT and PAYLOAD are left open; nothing is visible of PAYLOAD. That the parameters and the later turns stay is
the model's reading (log 11). -/
def Obligations.ResetSetsEveryRegister : Prop :=
  ∀ (s : State) (rest : List Turn), s.agenda = .reset :: rest →
    ∃ t, step s = .next t ∧ t.ie = false ∧ t.done = false ∧ t.cmdErr = false ∧ t.ovr = false ∧ t.lenErr = false ∧
      t.pending = none ∧ t.result = ⟨.noOutcome, false, .noDetail⟩ ∧ t.errInfo = 0 ∧ t.acc = 0xB704CE#24 ∧
      t.claimed = 0 ∧ t.textLen = 0 ∧ t.payLen = 0 ∧ t.segCount = 0 ∧ t.seg0 = 0 ∧ t.seg1 = 0 ∧ t.cfg = s.cfg ∧
      t.irq = false ∧ t.agenda = rest ∧ payOperand t = []

/-! ### Whole-machine rules -/

/-- R211: a sticky flag is cleared only by a 1 written to its bit of `STATUS`, by `CLEAR`, or by reset. -/
def Obligations.StickyFlagsClearedOnlyByTheirEvents : Prop :=
  ∀ s t : State, step s = .next t →
    ∀ p ∈ [(2, s.cmdErr, t.cmdErr), (3, s.ovr, t.ovr), (4, s.lenErr, t.lenErr)], p.2.1 = true → p.2.2 = false →
      (∃ v rest, s.agenda = .write (s.cfg.base + 0x00C) .word v :: rest ∧ v.getLsbD p.1 = true) ∨
      (s.pending = some (encode .clear) ∧ (s.agenda = [] ∨ ∃ rest, s.agenda = .engine :: rest)) ∨
      (∃ rest, s.agenda = .reset :: rest)

/-- R41: what sets each flag: completion sets `DONE`, the execution of an illegal word `CMDERR`, a dropped write (R200)
`OVR`, a `TEXT_LEN` write above the capacity `LENERR`; acceptance sets `BUSY`. -/
def Obligations.FlagsSetOnlyByTheirEvents : Prop :=
  ∀ s t : State, step s = .next t →
    (s.done = false → t.done = true →
      s.busy = true ∧ t.busy = false ∧ (s.agenda = [] ∨ ∃ rest, s.agenda = .engine :: rest)) ∧
    (s.cmdErr = false → t.cmdErr = true →
      (s.agenda = [] ∨ ∃ rest, s.agenda = .engine :: rest) ∧ ∃ w c, s.pending = some w ∧ decode w = .error c) ∧
    (s.ovr = false → t.ovr = true →
      s.busy = true ∧ ∃ (off : Offset) (n : Width) (v : Word) (rest : List Turn),
        s.agenda = .write (s.cfg.base + off.toNat) n v :: rest ∧ off.toNat % n.bytes = 0 ∧
        ((n = .word ∧ off.toNat ∈ [0x008, 0x018, 0x01C, 0x020]) ∨ (0x4000 ≤ off.toNat ∧ off.toNat < 0x8000))) ∧
    (s.lenErr = false → t.lenErr = true →
      s.busy = false ∧ ∃ v rest, s.agenda = .write (s.cfg.base + 0x020) .word v :: rest ∧ s.cfg.textCap < v.toNat) ∧
    (s.busy = false → t.busy = true →
      ∃ w rest, s.agenda = .write (s.cfg.base + 0x008) .word w :: rest ∧ t.pending = some w ∧ t.done = false)

/-- R72, R225: while a command is pending, a host access changes none of the command's inputs, so the command reads what
they held when it was accepted. -/
def Obligations.BusyProtectsInputs : Prop :=
  ∀ (s t : State) (turn : Turn) (rest : List Turn), s.busy = true → s.agenda = turn :: rest → turn ≠ .engine →
    turn ≠ .reset → step s = .next t →
    t.pending = s.pending ∧ t.textLen = s.textLen ∧ t.acc = s.acc ∧ t.claimed = s.claimed ∧ t.payLen = s.payLen ∧
    textOperand t = textOperand s ∧ payOperand t = payOperand s ∧ t.result = s.result ∧ t.cfg = s.cfg
end

