-- ==== Sys2Proof/Laws/State.lean ====
section
/-! SUPPORT. Laws/State.lean: what each named update of the state does to each field, one lemma a field, so that no later proof unfolds an update. -/

namespace Sys2Proof.Machine

variable (s : State)

/-! ### respond -/

@[simp] theorem respond_cfg (r : BusResp) : (respond r s).cfg = s.cfg := rfl
@[simp] theorem respond_ie (r : BusResp) : (respond r s).ie = s.ie := rfl
@[simp] theorem respond_done (r : BusResp) : (respond r s).done = s.done := rfl
@[simp] theorem respond_cmdErr (r : BusResp) : (respond r s).cmdErr = s.cmdErr := rfl
@[simp] theorem respond_ovr (r : BusResp) : (respond r s).ovr = s.ovr := rfl
@[simp] theorem respond_lenErr (r : BusResp) : (respond r s).lenErr = s.lenErr := rfl
@[simp] theorem respond_pending (r : BusResp) : (respond r s).pending = s.pending := rfl
@[simp] theorem respond_result (r : BusResp) : (respond r s).result = s.result := rfl
@[simp] theorem respond_errInfo (r : BusResp) : (respond r s).errInfo = s.errInfo := rfl
@[simp] theorem respond_acc (r : BusResp) : (respond r s).acc = s.acc := rfl
@[simp] theorem respond_claimed (r : BusResp) : (respond r s).claimed = s.claimed := rfl
@[simp] theorem respond_textLen (r : BusResp) : (respond r s).textLen = s.textLen := rfl
@[simp] theorem respond_payLen (r : BusResp) : (respond r s).payLen = s.payLen := rfl
@[simp] theorem respond_segCount (r : BusResp) : (respond r s).segCount = s.segCount := rfl
@[simp] theorem respond_seg0 (r : BusResp) : (respond r s).seg0 = s.seg0 := rfl
@[simp] theorem respond_seg1 (r : BusResp) : (respond r s).seg1 = s.seg1 := rfl
@[simp] theorem respond_text (r : BusResp) : (respond r s).text = s.text := rfl
@[simp] theorem respond_payload (r : BusResp) : (respond r s).payload = s.payload := rfl
@[simp] theorem respond_agenda (r : BusResp) : (respond r s).agenda = s.agenda := rfl
@[simp] theorem respond_responses (r : BusResp) : (respond r s).responses = r :: s.responses := rfl
@[simp] theorem respond_draws (r : BusResp) : (respond r s).draws = s.draws := rfl
@[simp] theorem respond_textEra (r : BusResp) : (respond r s).textEra = s.textEra := rfl
@[simp] theorem respond_payEra (r : BusResp) : (respond r s).payEra = s.payEra := rfl

/-! ### dropWrite -/

@[simp] theorem dropWrite_cfg : (dropWrite s).cfg = s.cfg := rfl
@[simp] theorem dropWrite_ie : (dropWrite s).ie = s.ie := rfl
@[simp] theorem dropWrite_done : (dropWrite s).done = s.done := rfl
@[simp] theorem dropWrite_cmdErr : (dropWrite s).cmdErr = s.cmdErr := rfl
@[simp] theorem dropWrite_ovr : (dropWrite s).ovr = true := rfl
@[simp] theorem dropWrite_lenErr : (dropWrite s).lenErr = s.lenErr := rfl
@[simp] theorem dropWrite_pending : (dropWrite s).pending = s.pending := rfl
@[simp] theorem dropWrite_result : (dropWrite s).result = s.result := rfl
@[simp] theorem dropWrite_errInfo : (dropWrite s).errInfo = s.errInfo := rfl
@[simp] theorem dropWrite_acc : (dropWrite s).acc = s.acc := rfl
@[simp] theorem dropWrite_claimed : (dropWrite s).claimed = s.claimed := rfl
@[simp] theorem dropWrite_textLen : (dropWrite s).textLen = s.textLen := rfl
@[simp] theorem dropWrite_payLen : (dropWrite s).payLen = s.payLen := rfl
@[simp] theorem dropWrite_segCount : (dropWrite s).segCount = s.segCount := rfl
@[simp] theorem dropWrite_seg0 : (dropWrite s).seg0 = s.seg0 := rfl
@[simp] theorem dropWrite_seg1 : (dropWrite s).seg1 = s.seg1 := rfl
@[simp] theorem dropWrite_text : (dropWrite s).text = s.text := rfl
@[simp] theorem dropWrite_payload : (dropWrite s).payload = s.payload := rfl
@[simp] theorem dropWrite_agenda : (dropWrite s).agenda = s.agenda := rfl
@[simp] theorem dropWrite_responses : (dropWrite s).responses = s.responses := rfl
@[simp] theorem dropWrite_draws : (dropWrite s).draws = s.draws := rfl
@[simp] theorem dropWrite_textEra : (dropWrite s).textEra = s.textEra := rfl
@[simp] theorem dropWrite_payEra : (dropWrite s).payEra = s.payEra := rfl

/-! ### setAcc -/

@[simp] theorem setAcc_cfg (v : Word) : (setAcc v s).cfg = s.cfg := rfl
@[simp] theorem setAcc_ie (v : Word) : (setAcc v s).ie = s.ie := rfl
@[simp] theorem setAcc_done (v : Word) : (setAcc v s).done = s.done := rfl
@[simp] theorem setAcc_cmdErr (v : Word) : (setAcc v s).cmdErr = s.cmdErr := rfl
@[simp] theorem setAcc_ovr (v : Word) : (setAcc v s).ovr = s.ovr := rfl
@[simp] theorem setAcc_lenErr (v : Word) : (setAcc v s).lenErr = s.lenErr := rfl
@[simp] theorem setAcc_pending (v : Word) : (setAcc v s).pending = s.pending := rfl
@[simp] theorem setAcc_result (v : Word) : (setAcc v s).result = s.result := rfl
@[simp] theorem setAcc_errInfo (v : Word) : (setAcc v s).errInfo = s.errInfo := rfl
@[simp] theorem setAcc_acc (v : Word) : (setAcc v s).acc = v.setWidth 24 := rfl
@[simp] theorem setAcc_claimed (v : Word) : (setAcc v s).claimed = s.claimed := rfl
@[simp] theorem setAcc_textLen (v : Word) : (setAcc v s).textLen = s.textLen := rfl
@[simp] theorem setAcc_payLen (v : Word) : (setAcc v s).payLen = s.payLen := rfl
@[simp] theorem setAcc_segCount (v : Word) : (setAcc v s).segCount = s.segCount := rfl
@[simp] theorem setAcc_seg0 (v : Word) : (setAcc v s).seg0 = s.seg0 := rfl
@[simp] theorem setAcc_seg1 (v : Word) : (setAcc v s).seg1 = s.seg1 := rfl
@[simp] theorem setAcc_text (v : Word) : (setAcc v s).text = s.text := rfl
@[simp] theorem setAcc_payload (v : Word) : (setAcc v s).payload = s.payload := rfl
@[simp] theorem setAcc_agenda (v : Word) : (setAcc v s).agenda = s.agenda := rfl
@[simp] theorem setAcc_responses (v : Word) : (setAcc v s).responses = s.responses := rfl
@[simp] theorem setAcc_draws (v : Word) : (setAcc v s).draws = s.draws := rfl
@[simp] theorem setAcc_textEra (v : Word) : (setAcc v s).textEra = s.textEra := rfl
@[simp] theorem setAcc_payEra (v : Word) : (setAcc v s).payEra = s.payEra := rfl

/-! ### setClaimed -/

@[simp] theorem setClaimed_cfg (v : Word) : (setClaimed v s).cfg = s.cfg := rfl
@[simp] theorem setClaimed_ie (v : Word) : (setClaimed v s).ie = s.ie := rfl
@[simp] theorem setClaimed_done (v : Word) : (setClaimed v s).done = s.done := rfl
@[simp] theorem setClaimed_cmdErr (v : Word) : (setClaimed v s).cmdErr = s.cmdErr := rfl
@[simp] theorem setClaimed_ovr (v : Word) : (setClaimed v s).ovr = s.ovr := rfl
@[simp] theorem setClaimed_lenErr (v : Word) : (setClaimed v s).lenErr = s.lenErr := rfl
@[simp] theorem setClaimed_pending (v : Word) : (setClaimed v s).pending = s.pending := rfl
@[simp] theorem setClaimed_result (v : Word) : (setClaimed v s).result = s.result := rfl
@[simp] theorem setClaimed_errInfo (v : Word) : (setClaimed v s).errInfo = s.errInfo := rfl
@[simp] theorem setClaimed_acc (v : Word) : (setClaimed v s).acc = s.acc := rfl
@[simp] theorem setClaimed_claimed (v : Word) : (setClaimed v s).claimed = v.setWidth 24 := rfl
@[simp] theorem setClaimed_textLen (v : Word) : (setClaimed v s).textLen = s.textLen := rfl
@[simp] theorem setClaimed_payLen (v : Word) : (setClaimed v s).payLen = s.payLen := rfl
@[simp] theorem setClaimed_segCount (v : Word) : (setClaimed v s).segCount = s.segCount := rfl
@[simp] theorem setClaimed_seg0 (v : Word) : (setClaimed v s).seg0 = s.seg0 := rfl
@[simp] theorem setClaimed_seg1 (v : Word) : (setClaimed v s).seg1 = s.seg1 := rfl
@[simp] theorem setClaimed_text (v : Word) : (setClaimed v s).text = s.text := rfl
@[simp] theorem setClaimed_payload (v : Word) : (setClaimed v s).payload = s.payload := rfl
@[simp] theorem setClaimed_agenda (v : Word) : (setClaimed v s).agenda = s.agenda := rfl
@[simp] theorem setClaimed_responses (v : Word) : (setClaimed v s).responses = s.responses := rfl
@[simp] theorem setClaimed_draws (v : Word) : (setClaimed v s).draws = s.draws := rfl
@[simp] theorem setClaimed_textEra (v : Word) : (setClaimed v s).textEra = s.textEra := rfl
@[simp] theorem setClaimed_payEra (v : Word) : (setClaimed v s).payEra = s.payEra := rfl

/-! ### recordSplit -/

@[simp] theorem recordSplit_cfg (gs : List Seg) : (recordSplit gs s).cfg = s.cfg := rfl
@[simp] theorem recordSplit_ie (gs : List Seg) : (recordSplit gs s).ie = s.ie := rfl
@[simp] theorem recordSplit_done (gs : List Seg) : (recordSplit gs s).done = s.done := rfl
@[simp] theorem recordSplit_cmdErr (gs : List Seg) : (recordSplit gs s).cmdErr = s.cmdErr := rfl
@[simp] theorem recordSplit_ovr (gs : List Seg) : (recordSplit gs s).ovr = s.ovr := rfl
@[simp] theorem recordSplit_lenErr (gs : List Seg) : (recordSplit gs s).lenErr = s.lenErr := rfl
@[simp] theorem recordSplit_pending (gs : List Seg) : (recordSplit gs s).pending = s.pending := rfl
@[simp] theorem recordSplit_result (gs : List Seg) : (recordSplit gs s).result = s.result := rfl
@[simp] theorem recordSplit_errInfo (gs : List Seg) : (recordSplit gs s).errInfo = s.errInfo := rfl
@[simp] theorem recordSplit_acc (gs : List Seg) : (recordSplit gs s).acc = s.acc := rfl
@[simp] theorem recordSplit_claimed (gs : List Seg) : (recordSplit gs s).claimed = s.claimed := rfl
@[simp] theorem recordSplit_textLen (gs : List Seg) : (recordSplit gs s).textLen = s.textLen := rfl
@[simp] theorem recordSplit_payLen (gs : List Seg) : (recordSplit gs s).payLen = s.payLen := rfl
@[simp] theorem recordSplit_segCount (gs : List Seg) : (recordSplit gs s).segCount = BitVec.ofNat 32 gs.length := rfl
@[simp] theorem recordSplit_seg0 (gs : List Seg) : (recordSplit gs s).seg0 = segWordAt gs 0 := rfl
@[simp] theorem recordSplit_seg1 (gs : List Seg) : (recordSplit gs s).seg1 = segWordAt gs 1 := rfl
@[simp] theorem recordSplit_text (gs : List Seg) : (recordSplit gs s).text = s.text := rfl
@[simp] theorem recordSplit_payload (gs : List Seg) : (recordSplit gs s).payload = s.payload := rfl
@[simp] theorem recordSplit_agenda (gs : List Seg) : (recordSplit gs s).agenda = s.agenda := rfl
@[simp] theorem recordSplit_responses (gs : List Seg) : (recordSplit gs s).responses = s.responses := rfl
@[simp] theorem recordSplit_draws (gs : List Seg) : (recordSplit gs s).draws = s.draws := rfl
@[simp] theorem recordSplit_textEra (gs : List Seg) : (recordSplit gs s).textEra = s.textEra := rfl
@[simp] theorem recordSplit_payEra (gs : List Seg) : (recordSplit gs s).payEra = s.payEra := rfl

/-! ### storeDecoded -/

@[simp] theorem storeDecoded_cfg (d : List Byte) (c : Word24) : (storeDecoded d c s).cfg = s.cfg := rfl
@[simp] theorem storeDecoded_ie (d : List Byte) (c : Word24) : (storeDecoded d c s).ie = s.ie := rfl
@[simp] theorem storeDecoded_done (d : List Byte) (c : Word24) : (storeDecoded d c s).done = s.done := rfl
@[simp] theorem storeDecoded_cmdErr (d : List Byte) (c : Word24) : (storeDecoded d c s).cmdErr = s.cmdErr := rfl
@[simp] theorem storeDecoded_ovr (d : List Byte) (c : Word24) : (storeDecoded d c s).ovr = s.ovr := rfl
@[simp] theorem storeDecoded_lenErr (d : List Byte) (c : Word24) : (storeDecoded d c s).lenErr = s.lenErr := rfl
@[simp] theorem storeDecoded_pending (d : List Byte) (c : Word24) : (storeDecoded d c s).pending = s.pending := rfl
@[simp] theorem storeDecoded_result (d : List Byte) (c : Word24) : (storeDecoded d c s).result = s.result := rfl
@[simp] theorem storeDecoded_errInfo (d : List Byte) (c : Word24) : (storeDecoded d c s).errInfo = s.errInfo := rfl
@[simp] theorem storeDecoded_acc (d : List Byte) (c : Word24) : (storeDecoded d c s).acc = s.acc := rfl
@[simp] theorem storeDecoded_claimed (d : List Byte) (c : Word24) : (storeDecoded d c s).claimed = c := rfl
@[simp] theorem storeDecoded_textLen (d : List Byte) (c : Word24) : (storeDecoded d c s).textLen = s.textLen := rfl
@[simp] theorem storeDecoded_payLen (d : List Byte) (c : Word24) : (storeDecoded d c s).payLen = BitVec.ofNat 32 d.length := rfl
@[simp] theorem storeDecoded_segCount (d : List Byte) (c : Word24) : (storeDecoded d c s).segCount = s.segCount := rfl
@[simp] theorem storeDecoded_seg0 (d : List Byte) (c : Word24) : (storeDecoded d c s).seg0 = s.seg0 := rfl
@[simp] theorem storeDecoded_seg1 (d : List Byte) (c : Word24) : (storeDecoded d c s).seg1 = s.seg1 := rfl
@[simp] theorem storeDecoded_text (d : List Byte) (c : Word24) : (storeDecoded d c s).text = s.text := rfl
@[simp] theorem storeDecoded_payload (d : List Byte) (c : Word24) : (storeDecoded d c s).payload = s.payload.writeBytes 0 d := rfl
@[simp] theorem storeDecoded_agenda (d : List Byte) (c : Word24) : (storeDecoded d c s).agenda = s.agenda := rfl
@[simp] theorem storeDecoded_responses (d : List Byte) (c : Word24) : (storeDecoded d c s).responses = s.responses := rfl
@[simp] theorem storeDecoded_draws (d : List Byte) (c : Word24) : (storeDecoded d c s).draws = s.draws := rfl
@[simp] theorem storeDecoded_textEra (d : List Byte) (c : Word24) : (storeDecoded d c s).textEra = s.textEra := rfl
@[simp] theorem storeDecoded_payEra (d : List Byte) (c : Word24) : (storeDecoded d c s).payEra = s.payEra := rfl

/-! ### raiseOutcome -/

@[simp] theorem raiseOutcome_cfg (k : Kind) (g : Bool) (d : Detail) (i : Word) : (raiseOutcome k g d i s).cfg = s.cfg := rfl
@[simp] theorem raiseOutcome_ie (k : Kind) (g : Bool) (d : Detail) (i : Word) : (raiseOutcome k g d i s).ie = s.ie := rfl
@[simp] theorem raiseOutcome_done (k : Kind) (g : Bool) (d : Detail) (i : Word) : (raiseOutcome k g d i s).done = s.done := rfl
@[simp] theorem raiseOutcome_cmdErr (k : Kind) (g : Bool) (d : Detail) (i : Word) : (raiseOutcome k g d i s).cmdErr = s.cmdErr := rfl
@[simp] theorem raiseOutcome_ovr (k : Kind) (g : Bool) (d : Detail) (i : Word) : (raiseOutcome k g d i s).ovr = s.ovr := rfl
@[simp] theorem raiseOutcome_lenErr (k : Kind) (g : Bool) (d : Detail) (i : Word) : (raiseOutcome k g d i s).lenErr = s.lenErr := rfl
@[simp] theorem raiseOutcome_pending (k : Kind) (g : Bool) (d : Detail) (i : Word) : (raiseOutcome k g d i s).pending = s.pending := rfl
@[simp] theorem raiseOutcome_result (k : Kind) (g : Bool) (d : Detail) (i : Word) : (raiseOutcome k g d i s).result = ⟨k, g, d⟩ := rfl
@[simp] theorem raiseOutcome_errInfo (k : Kind) (g : Bool) (d : Detail) (i : Word) : (raiseOutcome k g d i s).errInfo = i := rfl
@[simp] theorem raiseOutcome_acc (k : Kind) (g : Bool) (d : Detail) (i : Word) : (raiseOutcome k g d i s).acc = s.acc := rfl
@[simp] theorem raiseOutcome_claimed (k : Kind) (g : Bool) (d : Detail) (i : Word) : (raiseOutcome k g d i s).claimed = if k = .checksumMismatch then s.claimed else 0 := rfl
@[simp] theorem raiseOutcome_textLen (k : Kind) (g : Bool) (d : Detail) (i : Word) : (raiseOutcome k g d i s).textLen = s.textLen := rfl
@[simp] theorem raiseOutcome_payLen (k : Kind) (g : Bool) (d : Detail) (i : Word) : (raiseOutcome k g d i s).payLen = 0 := rfl
@[simp] theorem raiseOutcome_segCount (k : Kind) (g : Bool) (d : Detail) (i : Word) : (raiseOutcome k g d i s).segCount = s.segCount := rfl
@[simp] theorem raiseOutcome_seg0 (k : Kind) (g : Bool) (d : Detail) (i : Word) : (raiseOutcome k g d i s).seg0 = s.seg0 := rfl
@[simp] theorem raiseOutcome_seg1 (k : Kind) (g : Bool) (d : Detail) (i : Word) : (raiseOutcome k g d i s).seg1 = s.seg1 := rfl
@[simp] theorem raiseOutcome_text (k : Kind) (g : Bool) (d : Detail) (i : Word) : (raiseOutcome k g d i s).text = s.text := rfl
@[simp] theorem raiseOutcome_payload (k : Kind) (g : Bool) (d : Detail) (i : Word) : (raiseOutcome k g d i s).payload = [] := rfl
@[simp] theorem raiseOutcome_agenda (k : Kind) (g : Bool) (d : Detail) (i : Word) : (raiseOutcome k g d i s).agenda = s.agenda := rfl
@[simp] theorem raiseOutcome_responses (k : Kind) (g : Bool) (d : Detail) (i : Word) : (raiseOutcome k g d i s).responses = s.responses := rfl
@[simp] theorem raiseOutcome_draws (k : Kind) (g : Bool) (d : Detail) (i : Word) : (raiseOutcome k g d i s).draws = s.draws := rfl
@[simp] theorem raiseOutcome_textEra (k : Kind) (g : Bool) (d : Detail) (i : Word) : (raiseOutcome k g d i s).textEra = s.textEra := rfl
@[simp] theorem raiseOutcome_payEra (k : Kind) (g : Bool) (d : Detail) (i : Word) : (raiseOutcome k g d i s).payEra = s.payEra + 1 := rfl

/-! ### finishOk -/

@[simp] theorem finishOk_cfg : (finishOk s).cfg = s.cfg := rfl
@[simp] theorem finishOk_ie : (finishOk s).ie = s.ie := rfl
@[simp] theorem finishOk_done : (finishOk s).done = s.done := rfl
@[simp] theorem finishOk_cmdErr : (finishOk s).cmdErr = s.cmdErr := rfl
@[simp] theorem finishOk_ovr : (finishOk s).ovr = s.ovr := rfl
@[simp] theorem finishOk_lenErr : (finishOk s).lenErr = s.lenErr := rfl
@[simp] theorem finishOk_pending : (finishOk s).pending = s.pending := rfl
@[simp] theorem finishOk_result : (finishOk s).result = ⟨.ok, false, .noDetail⟩ := rfl
@[simp] theorem finishOk_errInfo : (finishOk s).errInfo = 0 := rfl
@[simp] theorem finishOk_acc : (finishOk s).acc = s.acc := rfl
@[simp] theorem finishOk_claimed : (finishOk s).claimed = s.claimed := rfl
@[simp] theorem finishOk_textLen : (finishOk s).textLen = s.textLen := rfl
@[simp] theorem finishOk_payLen : (finishOk s).payLen = s.payLen := rfl
@[simp] theorem finishOk_segCount : (finishOk s).segCount = s.segCount := rfl
@[simp] theorem finishOk_seg0 : (finishOk s).seg0 = s.seg0 := rfl
@[simp] theorem finishOk_seg1 : (finishOk s).seg1 = s.seg1 := rfl
@[simp] theorem finishOk_text : (finishOk s).text = s.text := rfl
@[simp] theorem finishOk_payload : (finishOk s).payload = s.payload := rfl
@[simp] theorem finishOk_agenda : (finishOk s).agenda = s.agenda := rfl
@[simp] theorem finishOk_responses : (finishOk s).responses = s.responses := rfl
@[simp] theorem finishOk_draws : (finishOk s).draws = s.draws := rfl
@[simp] theorem finishOk_textEra : (finishOk s).textEra = s.textEra := rfl
@[simp] theorem finishOk_payEra : (finishOk s).payEra = s.payEra := rfl

/-! ### complete -/

@[simp] theorem complete_cfg : (complete s).cfg = s.cfg := rfl
@[simp] theorem complete_ie : (complete s).ie = s.ie := rfl
@[simp] theorem complete_done : (complete s).done = true := rfl
@[simp] theorem complete_cmdErr : (complete s).cmdErr = s.cmdErr := rfl
@[simp] theorem complete_ovr : (complete s).ovr = s.ovr := rfl
@[simp] theorem complete_lenErr : (complete s).lenErr = s.lenErr := rfl
@[simp] theorem complete_pending : (complete s).pending = none := rfl
@[simp] theorem complete_result : (complete s).result = s.result := rfl
@[simp] theorem complete_errInfo : (complete s).errInfo = s.errInfo := rfl
@[simp] theorem complete_acc : (complete s).acc = s.acc := rfl
@[simp] theorem complete_claimed : (complete s).claimed = s.claimed := rfl
@[simp] theorem complete_textLen : (complete s).textLen = s.textLen := rfl
@[simp] theorem complete_payLen : (complete s).payLen = s.payLen := rfl
@[simp] theorem complete_segCount : (complete s).segCount = s.segCount := rfl
@[simp] theorem complete_seg0 : (complete s).seg0 = s.seg0 := rfl
@[simp] theorem complete_seg1 : (complete s).seg1 = s.seg1 := rfl
@[simp] theorem complete_text : (complete s).text = s.text := rfl
@[simp] theorem complete_payload : (complete s).payload = s.payload := rfl
@[simp] theorem complete_agenda : (complete s).agenda = s.agenda := rfl
@[simp] theorem complete_responses : (complete s).responses = s.responses := rfl
@[simp] theorem complete_draws : (complete s).draws = s.draws := rfl
@[simp] theorem complete_textEra : (complete s).textEra = s.textEra := rfl
@[simp] theorem complete_payEra : (complete s).payEra = s.payEra := rfl

/-! ### accept -/

@[simp] theorem accept_cfg (w : Word) : (accept w s).cfg = s.cfg := rfl
@[simp] theorem accept_ie (w : Word) : (accept w s).ie = s.ie := rfl
@[simp] theorem accept_done (w : Word) : (accept w s).done = false := rfl
@[simp] theorem accept_cmdErr (w : Word) : (accept w s).cmdErr = s.cmdErr := rfl
@[simp] theorem accept_ovr (w : Word) : (accept w s).ovr = s.ovr := rfl
@[simp] theorem accept_lenErr (w : Word) : (accept w s).lenErr = s.lenErr := rfl
@[simp] theorem accept_pending (w : Word) : (accept w s).pending = some w := rfl
@[simp] theorem accept_result (w : Word) : (accept w s).result = s.result := rfl
@[simp] theorem accept_errInfo (w : Word) : (accept w s).errInfo = s.errInfo := rfl
@[simp] theorem accept_acc (w : Word) : (accept w s).acc = s.acc := rfl
@[simp] theorem accept_claimed (w : Word) : (accept w s).claimed = s.claimed := rfl
@[simp] theorem accept_textLen (w : Word) : (accept w s).textLen = s.textLen := rfl
@[simp] theorem accept_payLen (w : Word) : (accept w s).payLen = s.payLen := rfl
@[simp] theorem accept_segCount (w : Word) : (accept w s).segCount = s.segCount := rfl
@[simp] theorem accept_seg0 (w : Word) : (accept w s).seg0 = s.seg0 := rfl
@[simp] theorem accept_seg1 (w : Word) : (accept w s).seg1 = s.seg1 := rfl
@[simp] theorem accept_text (w : Word) : (accept w s).text = s.text := rfl
@[simp] theorem accept_payload (w : Word) : (accept w s).payload = s.payload := rfl
@[simp] theorem accept_agenda (w : Word) : (accept w s).agenda = s.agenda := rfl
@[simp] theorem accept_responses (w : Word) : (accept w s).responses = s.responses := rfl
@[simp] theorem accept_draws (w : Word) : (accept w s).draws = s.draws := rfl
@[simp] theorem accept_textEra (w : Word) : (accept w s).textEra = s.textEra := rfl
@[simp] theorem accept_payEra (w : Word) : (accept w s).payEra = s.payEra := rfl

/-! ### writeCtrl -/

@[simp] theorem writeCtrl_cfg (v : Word) : (writeCtrl v s).cfg = s.cfg := rfl
@[simp] theorem writeCtrl_ie (v : Word) : (writeCtrl v s).ie = v.getLsbD 0 := rfl
@[simp] theorem writeCtrl_done (v : Word) : (writeCtrl v s).done = s.done := rfl
@[simp] theorem writeCtrl_cmdErr (v : Word) : (writeCtrl v s).cmdErr = s.cmdErr := rfl
@[simp] theorem writeCtrl_ovr (v : Word) : (writeCtrl v s).ovr = s.ovr := rfl
@[simp] theorem writeCtrl_lenErr (v : Word) : (writeCtrl v s).lenErr = s.lenErr := rfl
@[simp] theorem writeCtrl_pending (v : Word) : (writeCtrl v s).pending = s.pending := rfl
@[simp] theorem writeCtrl_result (v : Word) : (writeCtrl v s).result = s.result := rfl
@[simp] theorem writeCtrl_errInfo (v : Word) : (writeCtrl v s).errInfo = s.errInfo := rfl
@[simp] theorem writeCtrl_acc (v : Word) : (writeCtrl v s).acc = s.acc := rfl
@[simp] theorem writeCtrl_claimed (v : Word) : (writeCtrl v s).claimed = s.claimed := rfl
@[simp] theorem writeCtrl_textLen (v : Word) : (writeCtrl v s).textLen = s.textLen := rfl
@[simp] theorem writeCtrl_payLen (v : Word) : (writeCtrl v s).payLen = s.payLen := rfl
@[simp] theorem writeCtrl_segCount (v : Word) : (writeCtrl v s).segCount = s.segCount := rfl
@[simp] theorem writeCtrl_seg0 (v : Word) : (writeCtrl v s).seg0 = s.seg0 := rfl
@[simp] theorem writeCtrl_seg1 (v : Word) : (writeCtrl v s).seg1 = s.seg1 := rfl
@[simp] theorem writeCtrl_text (v : Word) : (writeCtrl v s).text = s.text := rfl
@[simp] theorem writeCtrl_payload (v : Word) : (writeCtrl v s).payload = s.payload := rfl
@[simp] theorem writeCtrl_agenda (v : Word) : (writeCtrl v s).agenda = s.agenda := rfl
@[simp] theorem writeCtrl_responses (v : Word) : (writeCtrl v s).responses = s.responses := rfl
@[simp] theorem writeCtrl_draws (v : Word) : (writeCtrl v s).draws = s.draws := rfl
@[simp] theorem writeCtrl_textEra (v : Word) : (writeCtrl v s).textEra = s.textEra := rfl
@[simp] theorem writeCtrl_payEra (v : Word) : (writeCtrl v s).payEra = s.payEra := rfl

/-! ### writeStatus -/

@[simp] theorem writeStatus_cfg (v : Word) : (writeStatus v s).cfg = s.cfg := rfl
@[simp] theorem writeStatus_ie (v : Word) : (writeStatus v s).ie = s.ie := rfl
@[simp] theorem writeStatus_done (v : Word) : (writeStatus v s).done = (s.done && !v.getLsbD 1) := rfl
@[simp] theorem writeStatus_cmdErr (v : Word) : (writeStatus v s).cmdErr = (s.cmdErr && !v.getLsbD 2) := rfl
@[simp] theorem writeStatus_ovr (v : Word) : (writeStatus v s).ovr = (s.ovr && !v.getLsbD 3) := rfl
@[simp] theorem writeStatus_lenErr (v : Word) : (writeStatus v s).lenErr = (s.lenErr && !v.getLsbD 4) := rfl
@[simp] theorem writeStatus_pending (v : Word) : (writeStatus v s).pending = s.pending := rfl
@[simp] theorem writeStatus_result (v : Word) : (writeStatus v s).result = s.result := rfl
@[simp] theorem writeStatus_errInfo (v : Word) : (writeStatus v s).errInfo = s.errInfo := rfl
@[simp] theorem writeStatus_acc (v : Word) : (writeStatus v s).acc = s.acc := rfl
@[simp] theorem writeStatus_claimed (v : Word) : (writeStatus v s).claimed = s.claimed := rfl
@[simp] theorem writeStatus_textLen (v : Word) : (writeStatus v s).textLen = s.textLen := rfl
@[simp] theorem writeStatus_payLen (v : Word) : (writeStatus v s).payLen = s.payLen := rfl
@[simp] theorem writeStatus_segCount (v : Word) : (writeStatus v s).segCount = s.segCount := rfl
@[simp] theorem writeStatus_seg0 (v : Word) : (writeStatus v s).seg0 = s.seg0 := rfl
@[simp] theorem writeStatus_seg1 (v : Word) : (writeStatus v s).seg1 = s.seg1 := rfl
@[simp] theorem writeStatus_text (v : Word) : (writeStatus v s).text = s.text := rfl
@[simp] theorem writeStatus_payload (v : Word) : (writeStatus v s).payload = s.payload := rfl
@[simp] theorem writeStatus_agenda (v : Word) : (writeStatus v s).agenda = s.agenda := rfl
@[simp] theorem writeStatus_responses (v : Word) : (writeStatus v s).responses = s.responses := rfl
@[simp] theorem writeStatus_draws (v : Word) : (writeStatus v s).draws = s.draws := rfl
@[simp] theorem writeStatus_textEra (v : Word) : (writeStatus v s).textEra = s.textEra := rfl
@[simp] theorem writeStatus_payEra (v : Word) : (writeStatus v s).payEra = s.payEra := rfl

/-! ### writeText -/

@[simp] theorem writeText_cfg (i : Nat) (n : Width) (v : Word) : (writeText i n v s).cfg = s.cfg := rfl
@[simp] theorem writeText_ie (i : Nat) (n : Width) (v : Word) : (writeText i n v s).ie = s.ie := rfl
@[simp] theorem writeText_done (i : Nat) (n : Width) (v : Word) : (writeText i n v s).done = s.done := rfl
@[simp] theorem writeText_cmdErr (i : Nat) (n : Width) (v : Word) : (writeText i n v s).cmdErr = s.cmdErr := rfl
@[simp] theorem writeText_ovr (i : Nat) (n : Width) (v : Word) : (writeText i n v s).ovr = s.ovr := rfl
@[simp] theorem writeText_lenErr (i : Nat) (n : Width) (v : Word) : (writeText i n v s).lenErr = s.lenErr := rfl
@[simp] theorem writeText_pending (i : Nat) (n : Width) (v : Word) : (writeText i n v s).pending = s.pending := rfl
@[simp] theorem writeText_result (i : Nat) (n : Width) (v : Word) : (writeText i n v s).result = s.result := rfl
@[simp] theorem writeText_errInfo (i : Nat) (n : Width) (v : Word) : (writeText i n v s).errInfo = s.errInfo := rfl
@[simp] theorem writeText_acc (i : Nat) (n : Width) (v : Word) : (writeText i n v s).acc = s.acc := rfl
@[simp] theorem writeText_claimed (i : Nat) (n : Width) (v : Word) : (writeText i n v s).claimed = s.claimed := rfl
@[simp] theorem writeText_textLen (i : Nat) (n : Width) (v : Word) : (writeText i n v s).textLen = s.textLen := rfl
@[simp] theorem writeText_payLen (i : Nat) (n : Width) (v : Word) : (writeText i n v s).payLen = s.payLen := rfl
@[simp] theorem writeText_segCount (i : Nat) (n : Width) (v : Word) : (writeText i n v s).segCount = s.segCount := rfl
@[simp] theorem writeText_seg0 (i : Nat) (n : Width) (v : Word) : (writeText i n v s).seg0 = s.seg0 := rfl
@[simp] theorem writeText_seg1 (i : Nat) (n : Width) (v : Word) : (writeText i n v s).seg1 = s.seg1 := rfl
@[simp] theorem writeText_text (i : Nat) (n : Width) (v : Word) : (writeText i n v s).text = s.text.writeBelow s.cfg.textCap i (lanes n v) := rfl
@[simp] theorem writeText_payload (i : Nat) (n : Width) (v : Word) : (writeText i n v s).payload = s.payload := rfl
@[simp] theorem writeText_agenda (i : Nat) (n : Width) (v : Word) : (writeText i n v s).agenda = s.agenda := rfl
@[simp] theorem writeText_responses (i : Nat) (n : Width) (v : Word) : (writeText i n v s).responses = s.responses := rfl
@[simp] theorem writeText_draws (i : Nat) (n : Width) (v : Word) : (writeText i n v s).draws = s.draws := rfl
@[simp] theorem writeText_textEra (i : Nat) (n : Width) (v : Word) : (writeText i n v s).textEra = s.textEra := rfl
@[simp] theorem writeText_payEra (i : Nat) (n : Width) (v : Word) : (writeText i n v s).payEra = s.payEra := rfl

/-! ### clearState -/

@[simp] theorem clearState_cfg : (clearState s).cfg = s.cfg := rfl
@[simp] theorem clearState_ie : (clearState s).ie = s.ie := rfl
@[simp] theorem clearState_done : (clearState s).done = s.done := rfl
@[simp] theorem clearState_cmdErr : (clearState s).cmdErr = false := rfl
@[simp] theorem clearState_ovr : (clearState s).ovr = false := rfl
@[simp] theorem clearState_lenErr : (clearState s).lenErr = false := rfl
@[simp] theorem clearState_pending : (clearState s).pending = s.pending := rfl
@[simp] theorem clearState_result : (clearState s).result = ⟨.noOutcome, false, .noDetail⟩ := rfl
@[simp] theorem clearState_errInfo : (clearState s).errInfo = 0 := rfl
@[simp] theorem clearState_acc : (clearState s).acc = crcSeed.setWidth 24 := rfl
@[simp] theorem clearState_claimed : (clearState s).claimed = 0 := rfl
@[simp] theorem clearState_textLen : (clearState s).textLen = 0 := rfl
@[simp] theorem clearState_payLen : (clearState s).payLen = 0 := rfl
@[simp] theorem clearState_segCount : (clearState s).segCount = 0 := rfl
@[simp] theorem clearState_seg0 : (clearState s).seg0 = 0 := rfl
@[simp] theorem clearState_seg1 : (clearState s).seg1 = 0 := rfl
@[simp] theorem clearState_text : (clearState s).text = s.text := rfl
@[simp] theorem clearState_payload : (clearState s).payload = [] := rfl
@[simp] theorem clearState_agenda : (clearState s).agenda = s.agenda := rfl
@[simp] theorem clearState_responses : (clearState s).responses = s.responses := rfl
@[simp] theorem clearState_draws : (clearState s).draws = s.draws := rfl
@[simp] theorem clearState_textEra : (clearState s).textEra = s.textEra := rfl
@[simp] theorem clearState_payEra : (clearState s).payEra = s.payEra + 1 := rfl

end Sys2Proof.Machine
end

