-- ==== Sys2Proof/Laws/Armor.lean ====
section
/-! SUPPORT. Laws/Armor.lean: everything the split-and-decode procedure of R118 can do, said once. -/

namespace Sys2Proof.Machine

/-- The ways `decode_armor` can go for the segments of the text, in the order of R197. -/
inductive ArmorCase (s : State) : Except State State → Prop where
  | structural (segs : List Seg) (hs : split (textOperand s) = segs) (hn : segs.length ≠ 2) :
      ArmorCase s (.error (raiseStructural segs.length (recordSplit segs s)))
  | data (g0 g1 : Seg) (hs : split (textOperand s) = [g0, g1]) (e : DecodeErr)
      (hd : b64Decode s.cfg (textOperand s) g0 = .error e) :
      ArmorCase s (.error (raiseDecoding false e (recordSplit [g0, g1] s)))
  | checksum (g0 g1 : Seg) (hs : split (textOperand s) = [g0, g1]) (d : List Byte) (e : DecodeErr)
      (hd : b64Decode s.cfg (textOperand s) g0 = .ok d)
      (hc : b64Decode s.cfg (textOperand s) g1 = .error e) :
      ArmorCase s (.error (raiseDecoding true e (recordSplit [g0, g1] s)))
  | format (g0 g1 : Seg) (hs : split (textOperand s) = [g0, g1]) (d c : List Byte)
      (hd : b64Decode s.cfg (textOperand s) g0 = .ok d)
      (hc : b64Decode s.cfg (textOperand s) g1 = .ok c) (hn : c.length ≠ 3) :
      ArmorCase s (.error (raiseFormat c.length (recordSplit [g0, g1] s)))
  | decoded (g0 g1 : Seg) (hs : split (textOperand s) = [g0, g1]) (d : List Byte) (c0 c1 c2 : Byte)
      (hd : b64Decode s.cfg (textOperand s) g0 = .ok d)
      (hc : b64Decode s.cfg (textOperand s) g1 = .ok [c0, c1, c2]) :
      ArmorCase s (.ok (storeDecoded d (claimedValue c0 c1 c2) (recordSplit [g0, g1] s)))

/-- `decode_armor` goes one of those ways. -/
theorem decodeArmor_cases (s : State) : ArmorCase s (decodeArmor s) := by
  unfold decodeArmor
  simp only
  split
  · rename_i g0 g1 hs
    rw [hs]
    split
    · exact .data g0 g1 hs _ ‹_›
    · split
      · exact .checksum g0 g1 hs _ _ ‹_› ‹_›
      · exact .decoded g0 g1 hs _ _ _ _ ‹_› ‹_›
      · rename_i d hd r c hn hc
        refine .format g0 g1 hs d c hd hc ?_
        intro hl
        obtain ⟨x, y, z, rfl⟩ : ∃ x y z, c = [x, y, z] := by
          match c, hl with
          | [x, y, z], _ => exact ⟨x, y, z, rfl⟩
        exact hn x y z rfl
  · rename_i hs
    refine .structural _ rfl ?_
    intro hl
    match h : split (textOperand s), hl with
    | [x, y], _ => exact hs x y h

/-- Where the count is not two, the procedure ends with `StructuralError`. -/
theorem decodeArmor_structural {s : State} (h : (split (textOperand s)).length ≠ 2) :
    decodeArmor s =
      .error (raiseStructural (split (textOperand s)).length (recordSplit (split (textOperand s)) s)) := by
  have hc := decodeArmor_cases s
  generalize decodeArmor s = r at hc
  cases hc with
  | structural segs hs hn => rw [hs]
  | data g0 g1 hs => rw [hs] at h; exact absurd rfl h
  | checksum g0 g1 hs => rw [hs] at h; exact absurd rfl h
  | format g0 g1 hs => rw [hs] at h; exact absurd rfl h
  | decoded g0 g1 hs => rw [hs] at h; exact absurd rfl h

end Sys2Proof.Machine
end

