-- ==== Sys2Proof/Laws/Memory.lean ====
section
/-! SUPPORT. Laws/Memory.lean: what the buffer operations read and keep: reading after writing, other indices unchanged, and the canonical form. -/

namespace Sys2Proof.Machine

@[simp] theorem Memory.lookup_nil (k : Nat) : Memory.lookup [] k = none := rfl

/-- Reading after one write: the octet at its index, every other index as before. -/
theorem Memory.lookup_write (m : Memory) (k : Nat) (b : Byte) (j : Nat) :
    (m.write k b).lookup j = if j = k then some b else m.lookup j := by
  induction m with
  | nil => simp only [Memory.write, Memory.lookup, eq_comm]
  | cons x m ih =>
    obtain ⟨a, c⟩ := x
    unfold Memory.write
    split
    · simp only [Memory.lookup, eq_comm]
    · split
      · subst_vars; simp only [Memory.lookup]; grind
      · simp only [Memory.lookup, ih]; grind

/-- Every index listed after a write is the written one or was listed before. -/
theorem Memory.mem_write {m : Memory} {k : Nat} {b : Byte} {x : Host.Cell} (h : x ∈ m.write k b) :
    x = (k, b) ∨ x ∈ m := by
  induction m with
  | nil => simpa [Memory.write] using h
  | cons y m ih =>
    obtain ⟨a, c⟩ := y
    unfold Memory.write at h
    split at h
    · simpa using h
    · split at h
      · simp only [List.mem_cons] at h ⊢; tauto
      · simp only [List.mem_cons] at h ⊢; rcases h with h | h
        · exact .inr (.inl h)
        · rcases ih h with h | h <;> simp [h]

/-- A write keeps the canonical form. -/
theorem Memory.wf_write {m : Memory} (h : m.wf) (k : Nat) (b : Byte) : (m.write k b).wf := by
  induction m with
  | nil => simp [Memory.write, Memory.wf]
  | cons y m ih =>
    obtain ⟨a, c⟩ := y
    have hm := List.pairwise_cons.1 h
    unfold Memory.write
    split
    · rename_i hk
      refine List.pairwise_cons.2 ⟨fun x hx => ?_, h⟩
      rcases List.mem_cons.1 hx with rfl | hx
      · exact hk
      · exact lt_trans hk (hm.1 x hx)
    · split
      · subst_vars; exact List.pairwise_cons.2 ⟨hm.1, hm.2⟩
      · refine List.pairwise_cons.2 ⟨fun x hx => ?_, ih hm.2⟩
        rcases Memory.mem_write hx with rfl | hx
        · simp only; omega
        · exact hm.1 x hx

/-- Reading after a sequence of octets is stored. -/
theorem Memory.lookup_writeBytes (m : Memory) (k : Nat) (bs : List Byte) (j : Nat) :
    (m.writeBytes k bs).lookup j = if k ≤ j ∧ j < k + bs.length then bs[j - k]? else m.lookup j := by
  induction bs generalizing m k with
  | nil => simp [Memory.writeBytes]
  | cons b bs ih =>
    rw [Memory.writeBytes, ih, Memory.lookup_write]
    by_cases hj : j = k
    · subst hj; simp
    · rw [if_neg hj]
      by_cases hr : k + 1 ≤ j ∧ j < k + 1 + bs.length
      · rw [if_pos hr, if_pos (by simp only [List.length_cons]; omega)]
        obtain ⟨d, rfl⟩ : ∃ d, j = k + 1 + d := ⟨j - (k + 1), by omega⟩
        rw [show k + 1 + d - k = d + 1 by omega, show k + 1 + d - (k + 1) = d by omega]; simp
      · rw [if_neg hr, if_neg (by simp only [List.length_cons]; omega)]

/-- Storing a sequence keeps the canonical form. -/
theorem Memory.wf_writeBytes {m : Memory} (h : m.wf) (k : Nat) (bs : List Byte) : (m.writeBytes k bs).wf := by
  induction bs generalizing m k with
  | nil => exact h
  | cons b bs ih => exact ih (Memory.wf_write h k b) (k + 1)

/-- Every index listed after storing a sequence lies in it or was listed before. -/
theorem Memory.mem_writeBytes {m : Memory} {k : Nat} {bs : List Byte} {x : Host.Cell} (h : x ∈ m.writeBytes k bs) :
    (k ≤ x.1 ∧ x.1 < k + bs.length) ∨ x ∈ m := by
  induction bs generalizing m k with
  | nil => exact .inr h
  | cons b bs ih =>
    rcases ih h with h | h
    · left; simp only [List.length_cons]; omega
    · rcases Memory.mem_write h with rfl | h
      · left; simp
      · exact .inr h

/-- Reading after a sequence is stored below a bound. -/
theorem Memory.lookup_writeBelow (cap : Nat) (m : Memory) (k : Nat) (bs : List Byte) (j : Nat) :
    (m.writeBelow cap k bs).lookup j =
      if (k ≤ j ∧ j < k + bs.length) ∧ j < cap then bs[j - k]? else m.lookup j := by
  induction bs generalizing m k with
  | nil => simp [Memory.writeBelow]
  | cons b bs ih =>
    rw [Memory.writeBelow, ih]
    by_cases hr : (k + 1 ≤ j ∧ j < k + 1 + bs.length) ∧ j < cap
    · rw [if_pos hr, if_pos (by simp only [List.length_cons]; omega)]
      obtain ⟨d, rfl⟩ : ∃ d, j = k + 1 + d := ⟨j - (k + 1), by omega⟩
      rw [show k + 1 + d - k = d + 1 by omega, show k + 1 + d - (k + 1) = d by omega]; simp
    · rw [if_neg hr]
      by_cases hk : k < cap
      · rw [if_pos hk, Memory.lookup_write]
        by_cases hj : j = k
        · subst hj; simp [hk]
        · rw [if_neg hj, if_neg (by simp only [List.length_cons]; omega)]
      · rw [if_neg hk, if_neg (by simp only [List.length_cons]; omega)]

/-- Storing a sequence below a bound keeps the canonical form. -/
theorem Memory.wf_writeBelow {m : Memory} (h : m.wf) (cap k : Nat) (bs : List Byte) :
    (m.writeBelow cap k bs).wf := by
  induction bs generalizing m k with
  | nil => exact h
  | cons b bs ih =>
    refine ih ?_ (k + 1)
    split
    · exact Memory.wf_write h k b
    · exact h

/-- Every index listed after storing a sequence below a bound is below the bound or was listed before. -/
theorem Memory.mem_writeBelow {cap : Nat} {m : Memory} {k : Nat} {bs : List Byte} {x : Host.Cell}
    (h : x ∈ m.writeBelow cap k bs) : x.1 < cap ∨ x ∈ m := by
  induction bs generalizing m k with
  | nil => exact .inr h
  | cons b bs ih =>
    rcases ih h with h | h
    · exact .inl h
    · split at h
      · rcases Memory.mem_write h with rfl | h
        · left; assumption
        · exact .inr h
      · exact .inr h

end Sys2Proof.Machine
end

