-- ==== Sys2Proof/Laws/Base64.lean ====
section
/-! SUPPORT. Laws/Base64.lean: the splitter over runs, the bounds of its segments, and what a segment must be to decode. -/

namespace Sys2Proof.Machine

/-! ### The splitter (R110) -/

/-- Inside a segment, octets other than the delimiter are read over. -/
theorem splitFrom_run (a rest : List Byte) (h : delimiter ∉ a) (i st : Nat) :
    splitFrom i (some st) (a ++ rest) = splitFrom (i + a.length) (some st) rest := by
  induction a generalizing i with
  | nil => rfl
  | cons b a ih =>
    have hb : b ≠ delimiter := by rintro rfl; exact h (by simp)
    simp only [List.cons_append, splitFrom, if_neg hb]
    rw [ih (by simp at h; exact h.2)]; simp [Nat.add_assoc, Nat.add_comm]

/-- Outside a segment, a non-empty run of octets other than the delimiter starts one. -/
theorem splitFrom_start (a rest : List Byte) (h : delimiter ∉ a) (hne : a ≠ []) (i : Nat) :
    splitFrom i none (a ++ rest) = splitFrom (i + a.length) (some i) rest := by
  cases a with
  | nil => exact absurd rfl hne
  | cons b a =>
    have hb : b ≠ delimiter := by rintro rfl; exact h (by simp)
    simp only [List.cons_append, splitFrom, if_neg hb]
    rw [splitFrom_run a rest (by simp at h; exact h.2)]; simp [Nat.add_assoc, Nat.add_comm]

/-- Outside a segment, delimiters are skipped. -/
theorem splitFrom_delimiters (n : Nat) (rest : List Byte) (i : Nat) :
    splitFrom i none (List.replicate n delimiter ++ rest) = splitFrom (i + n) none rest := by
  induction n generalizing i with
  | zero => rfl
  | succ n ih => simp [List.replicate_succ, splitFrom]; rw [ih]; congr 1; omega

/-- Every segment is non-empty and lies in the text. -/
theorem splitFrom_bound (t : List Byte) (i : Nat) (o : Option Nat) (ho : ∀ st, o = some st → st < i) :
    ∀ g ∈ splitFrom i o t, 1 ≤ g.len ∧ g.start + g.len ≤ i + t.length := by
  induction t generalizing i o with
  | nil =>
    intro g hg
    cases o with
    | none => simp [splitFrom] at hg
    | some st => have := ho st rfl; simp [splitFrom] at hg; subst hg; simp; omega
  | cons b t ih =>
    intro g hg
    cases o with
    | none =>
      simp only [splitFrom] at hg
      split at hg
      · have := ih (i + 1) none (by simp) g hg; simp; omega
      · have := ih (i + 1) (some i) (by simp) g hg; simp; omega
    | some st =>
      have h0 := ho st rfl
      simp only [splitFrom] at hg
      split at hg
      · rcases List.mem_cons.1 hg with rfl | hg
        · simp; omega
        · have := ih (i + 1) none (by simp) g hg; simp; omega
      · have := ih (i + 1) (some st) (by simp; omega) g hg; simp; omega

theorem split_bound {t : List Byte} {g : Seg} (h : g ∈ split t) : 1 ≤ g.len ∧ g.start + g.len ≤ t.length := by
  simpa using splitFrom_bound t 0 none (by simp) g h

/-- There are at most half as many segments as octets, rounded up. -/
theorem splitFrom_length (t : List Byte) (i : Nat) (o : Option Nat) :
    2 * (splitFrom i o t).length ≤ t.length + 1 + (if o.isSome then 1 else 0) := by
  induction t generalizing i o with
  | nil => cases o <;> simp [splitFrom]
  | cons b t ih =>
    cases o <;> simp only [splitFrom] <;> split
    · have := ih (i + 1) none; simp at *; omega
    · have := ih (i + 1) (some i); simp at *; omega
    · have := ih (i + 1) none; simp at *; omega
    · rename_i st _; have := ih (i + 1) (some st); simp at *; omega

theorem split_length (t : List Byte) : 2 * (split t).length ≤ t.length + 1 := by
  simpa [split] using splitFrom_length t 0 none

@[simp] theorem length_textOperand (s : State) : (textOperand s).length = s.textLen.toNat := by simp [textOperand]

/-! ### The decoder (R113 to R116) -/

/-- A symbol's value is the value it stands for. -/
theorem b64Val_b64Symbol (v : BitVec 6) : b64Val (b64Symbol v) = some v := by revert v; decide

/-- An octet with a value is that value's symbol. -/
theorem b64Symbol_of_b64Val (o : Byte) (v : BitVec 6) (h : b64Val o = some v) : b64Symbol v = o := by
  have all : ∀ o : Byte, (b64Val o).all (fun v => b64Symbol v == o) = true := by decide
  have := all o
  rw [h] at this
  simpa using this

theorem length_assemble_le : ∀ l : List (BitVec 6), (assemble l).length ≤ l.length
  | a :: b :: c :: d :: rest => by have := length_assemble_le rest; simp [assemble]; omega
  | [a, b, c] => by simp [assemble]
  | [a, b] => by simp [assemble]
  | [_] => by simp [assemble]
  | [] => by simp [assemble]

/-- The octets of a segment inside the text: as many as it is long, at offsets inside it. -/
theorem octetsOf_bound (t : List Byte) (g : Seg) :
    (octetsOf t g).length ≤ g.len ∧ ∀ p ∈ octetsOf t g, p.2 < g.start + g.len := by
  refine ⟨by simp [octetsOf], fun p hp => ?_⟩
  obtain ⟨a, b⟩ := p
  have := List.mem_zipIdx hp
  simp at this ⊢; omega

theorem octetsOf_ne_nil {t : List Byte} {g : Seg} (h1 : 1 ≤ g.len) (h2 : g.start + g.len ≤ t.length) :
    octetsOf t g ≠ [] := by
  intro h
  have := congrArg List.length h
  simp [octetsOf] at this; omega

/-- No octet is skipped where the instance is at the spec's rule (R114). -/
theorem symbolsOf_eq_self {c : Config} (h : c.skipWhitespace = false) (octets : List (Byte × Nat)) :
    symbolsOf c octets = octets := by simp [symbolsOf, h]

theorem symbolsOf_sublist (c : Config) (octets : List (Byte × Nat)) : (symbolsOf c octets).Sublist octets := by
  unfold symbolsOf
  split
  · exact List.filter_sublist
  · exact List.Sublist.refl _

/-- A blank segment is one of two errors, at an octet of its own (R193). -/
theorem blankSegment_cases {octets : List (Byte × Nat)} (h : octets ≠ []) :
    ∃ p ∈ octets, blankSegment octets = .error ⟨.invalidSymbol, p.2, p.1⟩ ∨
      blankSegment octets = .error ⟨.invalidLength, p.2, p.1⟩ := by
  match octets, h with
  | first :: rest, _ =>
    unfold blankSegment
    simp only
    split
    · exact ⟨first, by simp, .inl rfl⟩
    · refine ⟨rest.getLastD first, ?_, .inr rfl⟩
      rw [List.getLastD_eq_getLast?]
      cases hl : rest.getLast? with
      | none => simp
      | some q => simp [List.mem_of_getLast? hl]

/-- What must hold of the octets of a segment where they decode, and what they decode to. -/
theorem b64DecodeSymbols_ok {c : Config} {octets : List (Byte × Nat)} {out : List Byte}
    (h : b64DecodeSymbols c octets = .ok out) :
    (octets ≠ [] → symbolsOf c octets ≠ []) ∧ (∀ p ∈ symbolsOf c octets, b64Val p.1 ≠ none) ∧
      out = assemble ((symbolsOf c octets).filterMap (fun p => b64Val p.1)) ∧
      (symbolsOf c octets).length % 4 ≠ 1 ∧
      (c.strictTrailingBits = true → ∀ o off, (symbolsOf c octets).getLast? = some (o, off) →
        trailingBitsSet ((symbolsOf c octets).length % 4) o = false) := by
  unfold b64DecodeSymbols at h
  simp only at h
  split at h
  · cases h
  · rename_i hf
    split at h
    · rename_i hl
      have ho : octets = [] := by
        by_contra hne
        obtain ⟨p, -, hp | hp⟩ := blankSegment_cases hne <;> rw [hp] at h <;> cases h
      subst ho
      cases h
      simp [symbolsOf, assemble]
    · rename_i o off hl
      have hv : ∀ p ∈ symbolsOf c octets, b64Val p.1 ≠ none :=
        fun p hp => by simpa using List.find?_eq_none.1 hf p hp
      have hs : symbolsOf c octets ≠ [] := by rintro hs; rw [hs] at hl; cases hl
      split at h
      · cases h
      · split at h
        · cases h
        · cases h
          refine ⟨fun _ => hs, hv, rfl, by assumption, fun hst o' off' h' => ?_⟩
          rw [hl] at h'; cases h'; simp_all

/-- The offset recorded for a segment that does not decode lies in the segment (R193). -/
theorem b64Decode_error_off {c : Config} {t : List Byte} {g : Seg} {e : DecodeErr}
    (h : b64Decode c t g = .error e) : e.off < g.start + g.len := by
  have hb := (octetsOf_bound t g).2
  have hs : ∀ p ∈ symbolsOf c (octetsOf t g), p.2 < g.start + g.len :=
    fun p hp => hb p ((symbolsOf_sublist c _).subset hp)
  unfold b64Decode b64DecodeSymbols at h
  simp only at h
  split at h
  · rename_i o off hf; cases h
    exact hs _ (List.mem_of_find?_eq_some hf)
  · split at h
    · by_cases hne : octetsOf t g = []
      · rw [hne] at h; cases h
      · obtain ⟨p, hp, h' | h'⟩ := blankSegment_cases hne <;> rw [h'] at h <;> cases h <;> exact hb p hp
    · rename_i o off hl
      have := hs _ (List.mem_of_getLast? hl)
      split at h
      · cases h; exact this
      · split at h <;> cases h; exact this

/-- A segment decodes to no more octets than it has (R115). -/
theorem length_le_of_b64Decode {c : Config} {t : List Byte} {g : Seg} {d : List Byte}
    (h : b64Decode c t g = .ok d) : d.length ≤ g.len := by
  rw [(b64DecodeSymbols_ok h).2.2.1]
  exact (length_assemble_le _).trans ((List.length_filterMap_le _ _).trans
    ((symbolsOf_sublist c _).length_le.trans (octetsOf_bound t g).1))

theorem length_assemble_pos : ∀ l : List (BitVec 6), 2 ≤ l.length → 1 ≤ (assemble l).length
  | _ :: _ :: _ :: _ :: _, _ => by simp [assemble]
  | [_, _, _], _ => by simp [assemble]
  | [_, _], _ => by simp [assemble]
  | [_], h => by simp at h
  | [], h => by simp at h

/-- No segment decodes to zero octets (R115, R175), whatever the instance skips. -/
theorem length_pos_of_b64Decode {c : Config} {t : List Byte} {g : Seg} {d : List Byte}
    (h1 : 1 ≤ g.len) (h2 : g.start + g.len ≤ t.length) (h : b64Decode c t g = .ok d) : 1 ≤ d.length := by
  obtain ⟨hs, hv, rfl, hm, -⟩ := b64DecodeSymbols_ok h
  refine length_assemble_pos _ ?_
  have hl : ((symbolsOf c (octetsOf t g)).filterMap (fun p => b64Val p.1)).length =
      (symbolsOf c (octetsOf t g)).length := by
    generalize symbolsOf c (octetsOf t g) = l at hv
    clear hs hm h
    induction l with
    | nil => rfl
    | cons p l ih =>
      obtain ⟨v, hv'⟩ := Option.ne_none_iff_exists'.1 (hv p (by simp))
      simp [hv', ih fun q hq => hv q (by simp [hq])]
  have := List.length_pos_iff.2 (hs (octetsOf_ne_nil h1 h2))
  omega

/-- The payload a decode stores reads back, and no other octet changes (R118). -/
theorem payload_of_writeBytes {s u : State} {d : List Byte} (h1 : u.payload = s.payload.writeBytes 0 d)
    (h2 : u.payLen.toNat = d.length) (h3 : u.payEra = s.payEra) :
    payOperand u = d ∧ ∀ i, d.length ≤ i → payloadOctet u i = payloadOctet s i := by
  constructor
  · unfold payOperand
    rw [h2]
    refine List.ext_getElem (by simp) fun i hi hi' => ?_
    simp [payloadOctet, h1, Memory.lookup_writeBytes, hi']
  · intro i hi
    simp [payloadOctet, h1, Memory.lookup_writeBytes, not_lt.2 hi, h3]

end Sys2Proof.Machine
end

