-- ==== Sys2Proof/Laws/Bus.lean ====
section
/-! SUPPORT. Laws/Bus.lean: everything a host access can do to the state, said once. -/

namespace Sys2Proof.Machine

/-- A read changes nothing but the record of answers and, where the location is volatile, the number of draws (R71). -/
theorem hostRead_cases (off : Offset) (n : Width) (s : State) :
    (aligned off n = false ∧ hostRead off n s = respond .busErr s) ∨
    (aligned off n = true ∧ s.busy = true ∧ (regionOf off).volatile = true ∧
      hostRead off n s =
        respond (.data n (n.narrow (Config.volatileRead s.draws))) { s with draws := s.draws + 1 }) ∨
    (aligned off n = true ∧ (s.busy && (regionOf off).volatile) = false ∧
      hostRead off n s = respond (.data n (peek off n s)) s) := by
  unfold hostRead volatileRead
  cases ha : aligned off n <;> cases hb : s.busy <;> cases hv : (regionOf off).volatile <;> simp

/-- What an aligned write can do (R200, R203): nothing; a drop; or the action of its target. -/
inductive PokeCase (s : State) : State → Prop where
  | ignored : PokeCase s s
  | ctrl (v : Word) : PokeCase s (writeCtrl v s)
  | status (v : Word) : PokeCase s (writeStatus v s)
  | dropped (hb : s.busy = true) : PokeCase s (dropWrite s)
  | accepted (v : Word) (hb : s.busy = false) : PokeCase s (accept v s)
  | acc (v : Word) (hb : s.busy = false) : PokeCase s (setAcc v s)
  | claimed (v : Word) (hb : s.busy = false) : PokeCase s (setClaimed v s)
  | tooLong (v : Word) (hb : s.busy = false) (hv : s.cfg.textCap < v.toNat) : PokeCase s { s with lenErr := true }
  | textLen (v : Word) (hb : s.busy = false) (hv : v.toNat ≤ s.cfg.textCap) : PokeCase s { s with textLen := v }
  | text (i : Nat) (n : Width) (v : Word) (hb : s.busy = false) : PokeCase s (writeText i n v s)

theorem unlessBusy_cases (act : State → State) (s : State) :
    (s.busy = true ∧ unlessBusy act s = dropWrite s) ∨ (s.busy = false ∧ unlessBusy act s = act s) := by
  unfold unlessBusy
  cases s.busy <;> simp

theorem poke_cases (off : Offset) (n : Width) (v : Word) (s : State) : PokeCase s (poke off n v s) := by
  have drop : ∀ act : State → State, (s.busy = false → PokeCase s (act s)) → PokeCase s (unlessBusy act s) := by
    intro act h
    rcases unlessBusy_cases act s with ⟨hb, he⟩ | ⟨hb, he⟩ <;> rw [he]
    · exact .dropped hb
    · exact h hb
  unfold poke
  split
  · split
    · rename_i r _ _
      cases r with
      | ctrl => exact .ctrl v
      | status => exact .status v
      | cmd => exact drop _ (.accepted v)
      | acc => exact drop _ (.acc v)
      | claimed => exact drop _ (.claimed v)
      | textLen =>
        refine drop _ fun hb => ?_
        unfold writeTextLen
        split
        · exact .tooLong v hb ‹_›
        · exact .textLen v hb (by omega)
      | id | result | errInfo | payLen | segCount | seg0 | seg1 | caps => exact .ignored
    · exact .ignored
  · exact .ignored
  · exact drop _ (.text _ n v)
  · exact .ignored

/-- A write answers BUS_ERR with no effect, or takes its effect and answers ok. -/
theorem hostWrite_cases (off : Offset) (n : Width) (v : Word) (s : State) :
    (aligned off n = false ∧ hostWrite off n v s = respond .busErr s) ∨
    (aligned off n = true ∧ hostWrite off n v s = respond .ok (poke off n v s)) := by
  unfold hostWrite
  cases aligned off n <;> simp

/-! ### Offsets and regions -/

theorem aligned_iff (off : Offset) (n : Width) : aligned off n = true ↔ off.toNat % n.bytes = 0 := by simp [aligned]

theorem aligned_eq_false_iff (off : Offset) (n : Width) : aligned off n = false ↔ off.toNat % n.bytes ≠ 0 := by
  simp [aligned]

/-- The platform address of an offset names that offset (R60). -/
theorem offsetOf_base (c : Config) (off : Offset) : offsetOf c (c.base + off.toNat) = some off := by
  simp [offsetOf]; omega

theorem offsetOf_eq_some {c : Config} {addr : Nat} {off : Offset} (h : offsetOf c addr = some off) :
    addr = c.base + off.toNat := by
  simp [offsetOf] at h; obtain ⟨h1, rfl⟩ := h; simp; omega

theorem lt_of_regAt {off : Offset} {r : Reg} (h : regAt (off.toNat / 4) = some r) : off.toNat < 0x38 := by
  by_contra hn
  obtain ⟨k, hk⟩ := Nat.exists_eq_add_of_le (show 14 ≤ off.toNat / 4 by omega)
  rw [hk, Nat.add_comm] at h
  simp [regAt] at h

/-- The offsets of a register's four octets (R61). -/
theorem regionOf_register_iff (off : Offset) (r : Reg) :
    regionOf off = .register r ↔ off.toNat < 0x38 ∧ off.toNat / 4 = r.offset / 4 := by
  constructor
  · intro h
    unfold regionOf at h; simp only at h
    split at h
    · split at h
      · rename_i h1
        cases h
        have h2 := lt_of_regAt h1
        refine ⟨h2, ?_⟩
        have h3 : off.toNat / 4 < 14 := by omega
        clear h2
        generalize off.toNat / 4 = k at *
        interval_cases k <;> simp [regAt] at h1 <;> subst h1 <;> rfl
      · cases h
    · split at h
      · cases h
      · split at h <;> cases h
  · rintro ⟨h, h1⟩
    unfold regionOf
    rw [if_pos (by omega), h1]
    cases r <;> rfl

/-- The offsets of the TEXT window (R61). -/
theorem regionOf_text_iff (off : Offset) (i : Nat) :
    regionOf off = .text i ↔ off.toNat = 0x4000 + i ∧ i < 0x4000 := by
  constructor
  · intro h
    unfold regionOf at h; simp only at h
    split at h
    · split at h <;> cases h
    · split at h
      · injection h with h; omega
      · split at h <;> cases h
  · rintro ⟨h, h1⟩
    simp only [regionOf, show ¬off.toNat < 0x4000 by omega, show off.toNat < 0x8000 by omega, if_true, if_false,
      show off.toNat - 0x4000 = i by omega]

/-- The offsets of the PAYLOAD window (R61). -/
theorem regionOf_payload_iff (off : Offset) (i : Nat) :
    regionOf off = .payload i ↔ off.toNat = 0x8000 + i ∧ i < 0x4000 := by
  constructor
  · intro h
    unfold regionOf at h; simp only at h
    split at h
    · split at h <;> cases h
    · split at h
      · cases h
      · split at h
        · injection h with h; omega
        · cases h
  · rintro ⟨h, h1⟩
    simp only [regionOf, show ¬off.toNat < 0x4000 by omega, show ¬off.toNat < 0x8000 by omega,
      show off.toNat < 0xC000 by omega, if_true, if_false, show off.toNat - 0x8000 = i by omega]

/-- The offsets of reserved space (R61). -/
theorem regionOf_reserved_iff (off : Offset) :
    regionOf off = .reserved ↔ (0x38 ≤ off.toNat ∧ off.toNat < 0x4000) ∨ 0xC000 ≤ off.toNat := by
  have := off.isLt
  constructor
  · intro h
    by_contra hn
    have : off.toNat < 0x38 ∨ (0x4000 ≤ off.toNat ∧ off.toNat < 0x8000) ∨
        (0x8000 ≤ off.toNat ∧ off.toNat < 0xC000) := by omega
    rcases this with h1 | h1 | h1
    · have : off.toNat / 4 < 14 := by omega
      unfold regionOf at h
      rw [if_pos (by omega)] at h
      generalize off.toNat / 4 = k at *
      interval_cases k <;> simp [regAt] at h
    · rw [(regionOf_text_iff off (off.toNat - 0x4000)).2 (by omega)] at h; cases h
    · rw [(regionOf_payload_iff off (off.toNat - 0x8000)).2 (by omega)] at h; cases h
  · intro h
    match h1 : regionOf off with
    | .register r => have := (regionOf_register_iff off r).1 h1; omega
    | .text i => have := (regionOf_text_iff off i).1 h1; omega
    | .payload i => have := (regionOf_payload_iff off i).1 h1; omega
    | .reserved => rfl

/-! ### Register accesses -/

/-- A 4-byte write at a register's offset runs the register's write action. -/
theorem hostWrite_register (s : State) (v : Word) (off : Offset) (r : Reg) (h : off.toNat = r.offset) :
    hostWrite off .word v s = respond .ok (writeReg r v s) := by
  have h1 : regionOf off = .register r := (regionOf_register_iff off _).2 (by rw [h]; cases r <;> decide)
  have h2 : aligned off .word = true := by rw [aligned_iff, h]; cases r <;> rfl
  simp [hostWrite, h2, poke, h1]

/-- A 4-byte read at a register's offset, while it is exact, answers the register's read value. -/
theorem hostRead_register (s : State) (off : Offset) (r : Reg) (hb : (s.busy && r.volatile) = false)
    (h : off.toNat = r.offset) : hostRead off .word s = respond (.data .word (readReg r s)) s := by
  have h1 : regionOf off = .register r := (regionOf_register_iff off _).2 (by rw [h]; cases r <;> decide)
  have h2 : aligned off .word = true := by rw [aligned_iff, h]; cases r <;> rfl
  have h3 : off.toNat % 4 = 0 := by rw [h]; cases r <;> rfl
  have h4 : (regionOf off).volatile = r.volatile := by rw [h1]; rfl
  rw [hostRead, h2, h4, hb]
  simp [peek, h1, h3, Width.narrow]

/-- Every register, in the order of R61. -/
def allRegs : List Reg :=
  [.id, .ctrl, .cmd, .status, .result, .errInfo, .acc, .claimed, .textLen, .payLen, .segCount, .seg0, .seg1, .caps]

/-- `STATUS`, bit by bit (R27). -/
theorem statusWord_eq (s : State) : statusWord s =
    0#27 ++ BitVec.ofBool s.lenErr ++ BitVec.ofBool s.ovr ++ BitVec.ofBool s.cmdErr ++ BitVec.ofBool s.done ++
      BitVec.ofBool s.pending.isSome := by
  unfold statusWord State.busy
  cases s.lenErr <;> cases s.ovr <;> cases s.cmdErr <;> cases s.done <;> cases s.pending.isSome <;> decide

/-- `RESULT`, field by field (R28). -/
theorem resultWord_eq (r : ResultReg) : resultWord r =
    0#26 ++ BitVec.ofNat 2 ([Detail.noDetail, .invalidSymbol, .invalidLength, .invalidLastSymbol].idxOf r.detail) ++
      BitVec.ofBool r.seg ++
      BitVec.ofNat 3 ([Kind.noOutcome, .ok, .structural, .decoding, .checksumFormat, .checksumMismatch].idxOf r.kind) := by
  obtain ⟨k, g, d⟩ := r
  cases k <;> cases g <;> cases d <;> decide

theorem capsWord_eq (c : Config) : capsWord c = BitVec.ofNat 16 c.textCap ++ BitVec.ofNat 16 c.textCap := by
  apply BitVec.eq_of_getLsbD_eq
  intro i hi
  simp only [capsWord, Config.payCap, BitVec.getLsbD_or, BitVec.getLsbD_shiftLeft, BitVec.getLsbD_setWidth,
    BitVec.getLsbD_append]
  by_cases h : i < 16
  · simp [h, hi]
  · have : (BitVec.ofNat 16 c.textCap).getLsbD i = false := BitVec.getLsbD_of_ge _ _ (by omega)
    simp [h, hi, this]; intro _; omega

theorem zeros_append (v : Word24) : (0#8 ++ v : Word) = v.setWidth 32 := by
  apply BitVec.eq_of_getLsbD_eq
  intro i hi
  simp only [BitVec.getLsbD_append, BitVec.getLsbD_setWidth]
  by_cases h : i < 24
  · simp [h, hi]
  · rw [BitVec.getLsbD_of_ge v i (by omega)]; simp [h]

/-- The register map says of each register what it reads (R61, R65). -/
theorem registers_eq (s : State) : s.registers = allRegs.map (fun r => (BitVec.ofNat 16 r.offset, readReg r s)) := by
  have h1 : ctrlWord s = 0#31 ++ BitVec.ofBool s.ie := by unfold ctrlWord; cases s.ie <;> decide
  simp only [State.registers, allRegs, List.map, readReg, h1, statusWord_eq, resultWord_eq, capsWord_eq, accWord,
    claimedWord, zeros_append, idValue, Reg.offset]
  rfl

/-- Some octets of a register's value, as the bus cuts them out (R65). -/
theorem narrow_eq_subWord (n : Width) (k : Nat) (v : Word) : n.narrow (v >>> (8 * k)) = subWord n k v := by
  apply BitVec.eq_of_toNat_eq
  have : v.toNat / 2 ^ (8 * k) < 2 ^ 32 := (Nat.div_le_self _ _).trans_lt v.isLt
  generalize hq : v.toNat / 2 ^ (8 * k) = q at *
  cases n
  all_goals simp [Width.narrow, subWord, Width.bytes, Nat.shiftRight_eq_div_pow, BitVec.extractLsb', hq]
  all_goals omega

theorem aligned_lane (r : Reg) (n : Width) (k : Nat) (hk : k < 4) (hn : k % n.bytes = 0) :
    aligned (BitVec.ofNat 16 r.offset + BitVec.ofNat 16 k) n = true := by
  rw [aligned_iff]
  cases r <;> cases n <;> interval_cases k <;> simp_all [Reg.offset, Width.bytes]

/-- A read of some octets of a register, while it is exact. -/
theorem hostRead_register_lane (s : State) (r : Reg) (n : Width) (k : Nat) (hb : (s.busy && r.volatile) = false)
    (hk : k < 4) (hn : k % n.bytes = 0) :
    hostRead (BitVec.ofNat 16 r.offset + BitVec.ofNat 16 k) n s = respond (.data n (subWord n k (readReg r s))) s := by
  have ho : (BitVec.ofNat 16 r.offset + BitVec.ofNat 16 k).toNat = r.offset + k := by
    cases r <;> interval_cases k <;> rfl
  have h4 : r.offset % 4 = 0 := by cases r <;> rfl
  have h38 : r.offset + 4 ≤ 0x38 := by cases r <;> decide
  have h1 : regionOf (BitVec.ofNat 16 r.offset + BitVec.ofNat 16 k) = .register r :=
    (regionOf_register_iff _ _).2 (by rw [ho]; omega)
  have hv : (regionOf (BitVec.ofNat 16 r.offset + BitVec.ofNat 16 k)).volatile = r.volatile := by rw [h1]; rfl
  rw [hostRead, aligned_lane r n k hk hn, hv, hb]
  simp [peek, h1, ho, show (r.offset + k) % 4 = k by omega, narrow_eq_subWord]
/-- What a write that sets `OVR` targets (R200). -/
theorem poke_sets_ovr {off : Offset} {n : Width} {v : Word} {s : State} (ha : aligned off n = true)
    (h0 : s.ovr = false) (h1 : (poke off n v s).ovr = true) :
    s.busy = true ∧
      ((n = .word ∧ off.toNat ∈ [0x008, 0x018, 0x01C, 0x020]) ∨ (0x4000 ≤ off.toNat ∧ off.toNat < 0x8000)) := by
  have busy : ∀ act : State → State, (s.busy = false → (act s).ovr = s.ovr) → (unlessBusy act s).ovr = true →
      s.busy = true := by
    intro act hact h
    rcases unlessBusy_cases act s with ⟨hb, -⟩ | ⟨hb, he⟩
    · exact hb
    · rw [he, hact hb, h0] at h; cases h
  rw [aligned_iff] at ha
  unfold poke at h1
  split at h1
  · rename_i r hr
    have hr := (regionOf_register_iff off r).1 hr
    split at h1
    · rename_i hn
      subst hn
      have ho : off.toNat = r.offset := by cases r <;> simp [Reg.offset, Width.bytes] at * <;> omega
      cases r with
      | cmd => exact ⟨busy _ (fun _ => rfl) h1, .inl ⟨rfl, by rw [ho]; decide⟩⟩
      | acc => exact ⟨busy _ (fun _ => rfl) h1, .inl ⟨rfl, by rw [ho]; decide⟩⟩
      | claimed => exact ⟨busy _ (fun _ => rfl) h1, .inl ⟨rfl, by rw [ho]; decide⟩⟩
      | textLen =>
        exact ⟨busy _ (fun _ => by unfold writeTextLen; split <;> rfl) h1, .inl ⟨rfl, by rw [ho]; decide⟩⟩
      | ctrl | status | id | result | errInfo | payLen | segCount | seg0 | seg1 | caps =>
        simp [writeReg, writeCtrl, writeStatus, h0] at h1
    · rw [h0] at h1; cases h1
  · rw [h0] at h1; cases h1
  · rename_i i hr
    have := (regionOf_text_iff off i).1 hr
    exact ⟨busy _ (fun _ => rfl) h1, .inr (by omega)⟩
  · rw [h0] at h1; cases h1

/-! ### Octet lanes -/

/-- Bit `i` of a value is bit `i mod 8` of its octet `i div 8` (R64). -/
theorem ofLanes_getLsbD (l : List Byte) (i : Nat) (hi : i < 32) :
    (ofLanes l).getLsbD i = ((l[i / 8]?).getD 0).getLsbD (i % 8) := by
  induction l generalizing i with
  | nil => simp [ofLanes]
  | cons b l ih =>
    simp only [ofLanes, BitVec.getLsbD_or, BitVec.getLsbD_shiftLeft, BitVec.getLsbD_setWidth]
    by_cases h : i < 8
    · simp [h, hi, show i / 8 = 0 by omega, show i % 8 = i by omega]
    · have : b.getLsbD i = false := BitVec.getLsbD_of_ge _ _ (by omega)
      rw [ih (i - 8) (by omega)]
      simp [h, hi, this, show i / 8 = (i - 8) / 8 + 1 by omega, show (i - 8) % 8 = i % 8 by omega]

/-- Octet `k` of the value of some octets is the `k`-th of them. -/
theorem extractLsb'_ofLanes (l : List Byte) (k : Nat) (hk : k < 4) :
    (ofLanes l).extractLsb' (8 * k) 8 = (l[k]?).getD 0 := by
  apply BitVec.eq_of_getLsbD_eq
  intro j hj
  rw [BitVec.getLsbD_extractLsb', ofLanes_getLsbD _ _ (by omega)]
  simp [hj, show (8 * k + j) / 8 = k by omega, show (8 * k + j) % 8 = j by omega]

/-- The octets of a written value, lowest offset first. -/
theorem lanes_getElem? (n : Width) (v : Word) (k : Nat) (hk : k < n.bytes) :
    (lanes n v)[k]? = some (v.extractLsb' (8 * k) 8) := by
  simp [lanes, lane, hk]

end Sys2Proof.Machine
end

