-- ==== Sys2Proof/Laws/Crc.lean ====
section
/-! SUPPORT. Laws/Crc.lean: the equations of the CRC functions, and what the two accumulator operations do. -/

namespace Sys2Proof.Machine

@[simp] theorem crcShifts_zero (acc : Word) : crcShifts 0 acc = acc := rfl

theorem crcShifts_succ (k : Nat) (acc : Word) : crcShifts (k + 1) acc = crcShifts k (crcShift acc) := rfl

@[simp] theorem crcFrom_nil (a : Word) : crcFrom a [] = a := rfl

theorem crcFrom_cons (a : Word) (b : Byte) (s : List Byte) : crcFrom a (b :: s) = crcFrom (crcStep a b) s := rfl

/-- Masking to 24 bits changes nothing that a 24-bit register stores. -/
theorem setWidth_mask24 (v : Word) : (v &&& 0x00FFFFFF#32).setWidth 24 = v.setWidth 24 := by
  apply BitVec.eq_of_toNat_eq
  rw [BitVec.toNat_setWidth, BitVec.toNat_setWidth, BitVec.toNat_and]
  exact (congrArg (· % 2 ^ 24) (Nat.and_two_pow_sub_one_eq_mod v.toNat 24)).trans (Nat.mod_mod _ _)

/-- Folding bytes stores the low 24 bits of the 32-bit result, and nothing else. -/
theorem foldIntoAcc_eq (bytes : List Byte) (s : State) :
    foldIntoAcc bytes s = { s with acc := (crcFrom (s.acc.setWidth 32) bytes).setWidth 24 } := by
  simp only [foldIntoAcc, setAcc, setWidth_mask24, accWord]

/-- The 24-bit comparison of R149 is equality of the two registers. -/
theorem compareClaim_eq (s : State) :
    compareClaim s = if s.acc = s.claimed then finishOk s else raiseMismatch s := by
  have h : (accWord s &&& 0x00FFFFFF#32 = claimedWord s) ↔ s.acc = s.claimed := by
    constructor
    · intro h
      have := congrArg (BitVec.setWidth 24) h
      rw [setWidth_mask24] at this
      simpa [accWord, claimedWord] using this
    · intro h
      apply BitVec.eq_of_toNat_eq
      rw [accWord, claimedWord, h, BitVec.toNat_and, BitVec.toNat_setWidth]
      have := s.claimed.isLt
      rw [Nat.mod_eq_of_lt (by omega)]
      exact (Nat.and_two_pow_sub_one_eq_mod _ 24).trans (Nat.mod_eq_of_lt this)
  simp only [compareClaim, h]

/-- A word is below 2^24 exactly when no bit from 24 up is set. -/
theorem lt_two_pow_24_iff (v : Word) : v.toNat < 2 ^ 24 ↔ ∀ i, 24 ≤ i → v.getLsbD i = false := by
  constructor
  · intro h i hi
    exact Nat.testBit_lt_two_pow (lt_of_lt_of_le h (Nat.pow_le_pow_right (by omega) hi))
  · intro h
    exact Nat.lt_pow_two_of_testBit _ fun i hi => h i hi

/-- One round of 2b (R140), bit by bit. -/
theorem crcShift_getLsbD (v : Word) (i : Nat) :
    (crcShift v).getLsbD i = ((v <<< 1).getLsbD i ^^ ((v <<< 1).getLsbD 24 && crcPoly.getLsbD i)) := by
  unfold crcShift
  split <;> simp_all

/-- Storing in 24 bits and widening again is the mask of R141. -/
theorem setWidth_setWidth_24 (v : Word) : (v.setWidth 24).setWidth 32 = v &&& 0x00FFFFFF#32 := by
  apply BitVec.eq_of_toNat_eq
  rw [BitVec.toNat_setWidth, BitVec.toNat_setWidth, BitVec.toNat_and, Nat.mod_eq_of_lt (by omega)]
  exact (Nat.and_two_pow_sub_one_eq_mod v.toNat 24).symm

end Sys2Proof.Machine
end

