-- ==== Sys2Proof/Laws/Frame.lean ====
section
/-! SUPPORT. Laws/Frame.lean: the shared operations of the commands keep the inputs of a command (Safety.lean, `KeepsInputs`). -/

namespace Sys2Proof.Machine

theorem keepsInputs_refl (s : State) : s.KeepsInputs s := by constructor <;> simp

theorem keepsInputs_trans {s t u : State} (h : s.KeepsInputs t) (h' : t.KeepsInputs u) : s.KeepsInputs u := by
  obtain ⟨⟩ := h; obtain ⟨⟩ := h'; constructor <;> simp_all

theorem keepsInputs_complete {s t : State} (h : s.KeepsInputs t) : s.KeepsInputs (complete t) := by
  obtain ⟨⟩ := h; constructor <;> simp_all [textOctet]

theorem keepsInputs_raiseOutcome (k : Kind) (g : Bool) (d : Detail) (i : Word) (s : State) :
    s.KeepsInputs (raiseOutcome k g d i s) := by
  constructor <;> simp [textOctet]

theorem keepsInputs_finishOk (s : State) : s.KeepsInputs (finishOk s) := by constructor <;> simp [textOctet]

theorem keepsInputs_recordSplit (segs : List Seg) (s : State) : s.KeepsInputs (recordSplit segs s) := by
  constructor <;> simp [textOctet]

theorem keepsInputs_setAcc (v : Word) (s : State) : s.KeepsInputs (setAcc v s) := by constructor <;> simp [textOctet]

theorem keepsInputs_storeDecoded (d : List Byte) (c : Word24) (s : State) : s.KeepsInputs (storeDecoded d c s) := by
  constructor <;> simp [textOctet]

theorem keepsInputs_compareClaim (s : State) : s.KeepsInputs (compareClaim s) := by
  rw [compareClaim_eq]
  split
  · exact keepsInputs_finishOk s
  · exact keepsInputs_raiseOutcome _ _ _ _ s

end Sys2Proof.Machine
end

