-- ==== Sys2Proof/Laws/PerInstr.lean ====
section
/-! SUPPORT. Laws/PerInstr.lean: the family RowFits, a fact about each command as syntax: its word selects its own row of the opcode table (30_encoding.md R93) and keeps `RSV` at 0 (R91). -/

namespace Sys2Proof.Laws.RowFits

/-- The command's word has the row's fixed bits and a zero `RSV` field. -/
def Statement (i : Instr) : Prop := encode i &&& i.rowMask = i.rowMatch ∧ rsvField (encode i) = 0

theorem nop : Statement .nop := by unfold Statement; decide
theorem crcInit : Statement .crcInit := by unfold Statement; decide
theorem crcByte (b : Byte) : Statement (.crcByte b) := by revert b; unfold Statement; decide
theorem crcText : Statement .crcText := by unfold Statement; decide
theorem crcPay : Statement .crcPay := by unfold Statement; decide
theorem crcCheck : Statement .crcCheck := by unfold Statement; decide
theorem armSplit : Statement .armSplit := by unfold Statement; decide
theorem armDecode : Statement .armDecode := by unfold Statement; decide
theorem armValidate : Statement .armValidate := by unfold Statement; decide
theorem clear : Statement .clear := by unfold Statement; decide

end Sys2Proof.Laws.RowFits
end

