-- ==== Sys2Proof/Laws/Step.lean ====
section
/-! SUPPORT. Laws/Step.lean: everything one transition can do, said once; the equations of `exec`. -/

namespace Sys2Proof.Machine

@[simp] theorem exec_nop (s : State) : exec .nop s = .next (complete s) := rfl
@[simp] theorem exec_crcInit (s : State) : exec .crcInit s = .next (complete (setAcc crcSeed s)) := rfl
@[simp] theorem exec_crcByte (b : Byte) (s : State) :
    exec (.crcByte b) s = .next (complete (foldIntoAcc [b] s)) := rfl
@[simp] theorem exec_crcText (s : State) :
    exec .crcText s = .next (complete (foldIntoAcc (textOperand s) s)) := rfl
@[simp] theorem exec_crcPay (s : State) :
    exec .crcPay s = .next (complete (foldIntoAcc (payOperand s) s)) := rfl
@[simp] theorem exec_crcCheck (s : State) : exec .crcCheck s = .next (complete (compareClaim s)) := rfl
@[simp] theorem exec_armSplit (s : State) : exec .armSplit s = .next (complete (splitText s)) := rfl
@[simp] theorem exec_clear (s : State) : exec .clear s = .next (complete (clearState s)) := rfl

theorem exec_armDecode (s : State) :
    exec .armDecode s =
      match decodeArmor s with
      | .error u => .next (complete u)
      | .ok u => .next (complete (finishOk u)) := rfl

theorem exec_armValidate (s : State) :
    exec .armValidate s =
      match decodeArmor s with
      | .error u => .next (complete u)
      | .ok u => .next (complete (compareClaim (checksumPayload u))) := rfl

/-- The state a transition acts on: the agenda without its first turn. -/
def State.turned (s : State) : State := { s with agenda := s.agenda.tail }

/-- What one transition from `s` can be. -/
inductive StepCase (s : State) : Host.Outcome State Fault Refusal → Prop where
  | idle (ht : s.agenda = [] ∨ ∃ rest, s.agenda = .engine :: rest) (hp : s.pending = none) :
      StepCase s (.next s.turned)
  | command (ht : s.agenda = [] ∨ ∃ rest, s.agenda = .engine :: rest) (w : Word) (hp : s.pending = some w) (i : Instr)
      (hd : decode w = .ok i) : StepCase s (exec i s.turned)
  | illegal (ht : s.agenda = [] ∨ ∃ rest, s.agenda = .engine :: rest) (w : Word) (hp : s.pending = some w)
      (c : IllegalWord) (hd : decode w = .error c) : StepCase s (.next (illegalCommand s.turned))
  | read (addr : Nat) (n : Width) (rest : List Turn) (ht : s.agenda = .read addr n :: rest) (off : Offset)
      (ho : offsetOf s.cfg addr = some off) : StepCase s (.next (hostRead off n s.turned))
  | write (addr : Nat) (n : Width) (v : Word) (rest : List Turn) (ht : s.agenda = .write addr n v :: rest)
      (off : Offset) (ho : offsetOf s.cfg addr = some off) : StepCase s (.next (hostWrite off n v s.turned))
  | outside (addr : Nat) (ho : offsetOf s.cfg addr = none)
      (ht : ∃ rest n, s.agenda = .read addr n :: rest ∨ ∃ v, s.agenda = .write addr n v :: rest) :
      StepCase s (.fault .outsideWindow)
  | reset (rest : List Turn) (ht : s.agenda = .reset :: rest) : StepCase s (.next (resetMachine s.turned))

theorem engineTurn_cases (s : State) (h : s.agenda = [] ∨ ∃ rest, s.agenda = .engine :: rest) :
    StepCase s (engineTurn s.turned) := by
  unfold engineTurn
  split
  · rename_i w hp
    unfold engineRun
    split
    · exact .command h w hp _ ‹_›
    · exact .illegal h w hp _ ‹_›
  · exact .idle h ‹_›

/-- A transition is one of those. -/
theorem step_cases (s : State) : StepCase s (step s) := by
  unfold step nextTurn
  split
  · rename_i t rest ht
    have hs : { s with agenda := rest } = s.turned := by simp [State.turned, ht]
    rw [hs]
    cases t with
    | engine => exact engineTurn_cases s (.inr ⟨rest, ht⟩)
    | read addr n =>
      simp only [takeTurn, readTurn]
      split
      · exact .read addr n rest ht _ ‹_›
      · exact .outside addr ‹_› ⟨rest, n, .inl ht⟩
    | write addr n v =>
      simp only [takeTurn, writeTurn]
      split
      · exact .write addr n v rest ht _ ‹_›
      · exact .outside addr ‹_› ⟨rest, n, .inr ⟨v, ht⟩⟩
    | reset => exact .reset rest ht
  · rename_i ht
    have hs : s = s.turned := by
      cases s; simp_all [State.turned]
    rw [show engineTurn s = engineTurn s.turned by rw [← hs]]
    exact engineTurn_cases s (.inl ht)

end Sys2Proof.Machine
end

