-- ==== Sys2Proof/Tests/Slice0.lean ====
section
/-! SUPPORT. Tests/Slice0.lean: small tests whose expected results stand in the spec (95_test_vectors.md, or the rule named), and a witness for the hypotheses of every statement. -/

namespace Sys2Proof.Tests

open Sys2Proof Sys2Proof.Machine

/-! ### Helpers -/

/-- The octets with these numbers. -/
def octets (l : List Nat) : List Byte := l.map (BitVec.ofNat 8)

/-- Reset state with a text loaded, as the vectors start. -/
def loaded (t : List Byte) : State :=
  { State.reset with
    text := Memory.writeBytes [] 0 t
    textLen := BitVec.ofNat 32 t.length }

/-- Reset state with a command pending. -/
def pendingWith (w : Word) : State := { State.reset with pending := some w }

/-- The next state, where there is one. -/
def nextOf (o : Host.Outcome State Fault Refusal) : Option State :=
  match o with
  | .next s => some s
  | .fault _ => none
  | .refused _ => none

/-- The reading of a state after one command, where there is one. -/
def after {α : Type} (i : Instr) (s : State) (f : State → α) : Option α := (nextOf (exec i s)).map f

/-- The reading of a state after one transition, where there is one. -/
def afterStep {α : Type} (s : State) (f : State → α) : Option α := (nextOf (step s)).map f

/-- `AA===YWnT=` -/
def textA1 : List Byte := octets [0x41, 0x41, 0x3D, 0x3D, 0x3D, 0x59, 0x57, 0x6E, 0x54, 0x3D]

/-- `=AA===YWnT` -/
def textA2 : List Byte := octets [0x3D, 0x41, 0x41, 0x3D, 0x3D, 0x3D, 0x59, 0x57, 0x6E, 0x54]

/-- `=twTO=` -/
def textOneSeg : List Byte := octets [0x3D, 0x74, 0x77, 0x54, 0x4F, 0x3D]

/-- `YWnT=AA==` -/
def textP4 : List Byte := octets [0x59, 0x57, 0x6E, 0x54, 0x3D, 0x41, 0x41, 0x3D, 0x3D]

/-- `AQ===YWnT=` -/
def textP8 : List Byte := octets [0x41, 0x51, 0x3D, 0x3D, 0x3D, 0x59, 0x57, 0x6E, 0x54, 0x3D]

/-- `aGVsbG8==R/W!` -/
def textD9 : List Byte := octets [0x61, 0x47, 0x56, 0x73, 0x62, 0x47, 0x38, 0x3D, 0x3D, 0x52, 0x2F, 0x57, 0x21]

/-- `AB=YWnT` -/
def textD18 : List Byte := octets [0x41, 0x42, 0x3D, 0x59, 0x57, 0x6E, 0x54]

/-- `AA==YWn` -/
def textD21 : List Byte := octets [0x41, 0x41, 0x3D, 0x3D, 0x59, 0x57, 0x6E]

/-- `A=YWnT` -/
def textD15 : List Byte := octets [0x41, 0x3D, 0x59, 0x57, 0x6E, 0x54]

/-- `AA===YWnT\n` -/
def textD12 : List Byte := octets [0x41, 0x41, 0x3D, 0x3D, 0x3D, 0x59, 0x57, 0x6E, 0x54, 0x0A]

/-- `YWJj=uhx7` -/
def textAbc : List Byte := octets [0x59, 0x57, 0x4A, 0x6A, 0x3D, 0x75, 0x68, 0x78, 0x37]

/-- `3q2+7w===kms2` -/
def textP11 : List Byte := octets [0x33, 0x71, 0x32, 0x2B, 0x37, 0x77, 0x3D, 0x3D, 0x3D, 0x6B, 0x6D, 0x73, 0x32]

/-- ` =twTO` -/
def textBlankData : List Byte := octets [0x20, 0x3D, 0x74, 0x77, 0x54, 0x4F]

/-- `AA= ` -/
def textBlankSum : List Byte := octets [0x41, 0x41, 0x3D, 0x20]

/-- `123456789` -/
def textDigits : List Byte := octets [0x31, 0x32, 0x33, 0x34, 0x35, 0x36, 0x37, 0x38, 0x39]

/-! ### WellFormed: an ill-formed term for each check -/

theorem test_wf_config_small : ¬({ Config.chosen with textCap := 15 } : Config).WF := by decide

theorem test_wf_config_large : ¬({ Config.chosen with textCap := 16385 } : Config).WF := by decide

theorem test_wf_config_base : ¬({ Config.chosen with base := 1 } : Config).WF := by decide

theorem test_wf_config_ok :
    ({ Config.chosen with textCap := 16 } : Config).WF ∧
    ({ Config.chosen with textCap := 16384, base := 0x10000 } : Config).WF := by decide

theorem test_wf_offset :
    HostOff.wf (.num 0x10000) = false ∧ HostOff.wf (.text 0x4000) = false ∧
    HostOff.wf (.pay 0x4000) = false := by decide

theorem test_wf_store_values :
    HostLine.wf (.sw (.reg .acc) 0x100000000) = false ∧ HostLine.wf (.sh (.text 0) 0x10000) = false ∧
    HostLine.wf (.sb (.text 0) 0x100) = false := by decide

theorem test_wf_store_offsets :
    HostLine.wf (.sw (.num 0x10000) 0) = false ∧ HostLine.wf (.sh (.num 0x10000) 0) = false ∧
    HostLine.wf (.sb (.num 0x10000) 0) = false := by decide

theorem test_wf_load_offsets :
    HostLine.wf (.lw (.num 0x10000)) = false ∧ HostLine.wf (.lh (.pay 0x4000)) = false ∧
    HostLine.wf (.lb (.text 0x4000)) = false := by decide

theorem test_wf_crc_byte : HostLine.wf (.crcByte 256) = false ∧ HostLine.wf (.crcByte 255) = true := by decide

theorem test_wf_setters :
    HostLine.wf (.setacc 0x100000000) = false ∧ HostLine.wf (.setclaim 0x100000000) = false := by decide

theorem test_wf_text (t : List Byte) (h : 0x4000 < t.length) : HostLine.wf (.text t) = false := by
  simp [HostLine.wf]; omega

theorem test_wf_program : assembleProgram Config.chosen [.command .nop, .crcByte 256] = none := by decide

/-! ### Decoding: each command's word written out from R93, bit 31 first -/

theorem test_decode_nop : decode 0b00000000000000000000000000000000#32 = .ok .nop := by decide

theorem test_decode_crcInit : decode 0b00000000000000000000000000000001#32 = .ok .crcInit := by decide

theorem test_decode_crcByte : decode 0b00000000000000000100000100000010#32 = .ok (.crcByte 0x41#8) := by decide

theorem test_decode_crcText : decode 0b00000000000000000000000000000011#32 = .ok .crcText := by decide

theorem test_decode_crcPay : decode 0b00000000000000000000000000000100#32 = .ok .crcPay := by decide

theorem test_decode_crcCheck : decode 0b00000000000000000000000000000101#32 = .ok .crcCheck := by decide

theorem test_decode_armSplit : decode 0b00000000000000000000000000000110#32 = .ok .armSplit := by decide

theorem test_decode_armDecode : decode 0b00000000000000000000000000000111#32 = .ok .armDecode := by decide

theorem test_decode_armValidate : decode 0b00000000000000000000000000001000#32 = .ok .armValidate := by decide

theorem test_decode_clear : decode 0b00000000000000000000000000001001#32 = .ok .clear := by decide

/-- I-1, C-37, I-2. -/
theorem test_decode_illegal : decode 0b00000000000000000000000000001010#32 = .error .undefinedOpcode ∧
    decode 0b00000000000000010000000000000010#32 = .error .crcByteReserved ∧
    decode 0b00000000000000000000000100000001#32 = .error .operandBitsSet := by decide

theorem test_decode_table_row :
    decodeTableWord 16 0x4102 = some (.crcByte 0x41#8) ∧ decodeTableWord 32 0x10002 = none ∧
    decodeTableWord 40 0 = none := by decide

/-! ### One command from a small state -/

/-- K-1. -/
theorem test_nop : after .nop State.reset statusWord = some 0x00000002#32 := by decide

/-- C-19. -/
theorem test_crcInit : after .crcInit { State.reset with acc := 0x123456#24 } (·.acc) = some 0xB704CE#24 := by decide

/-- C-16. -/
theorem test_crcByte_from_seed : after (.crcByte 0x41#8) State.reset (·.acc) = some 0xFE86FA#24 := by decide

/-- C-17. -/
theorem test_crcByte_all_ones :
    after (.crcByte 0xFF#8) { State.reset with acc := 0xFFFFFF#24 } (·.acc) = some 0xFFFF00#24 := by decide

/-- C-30. -/
theorem test_crcText : after .crcText (loaded textDigits) (·.acc) = some 0x21CF02#24 := by decide +kernel

/-- C-31. -/
theorem test_crcText_raw :
    after .crcText (loaded textA1) (fun s => (s.acc, s.segCount, s.result.kind)) = some (0xDC539C#24, 0#32, Kind.noOutcome) := by decide +kernel

/-- C-34, from the reset value of `ACC`. -/
theorem test_crcPay :
    (nextOf (exec .armDecode (loaded textAbc))).bind (fun s => after .crcPay s (·.acc)) = some 0xBA1C7B#24 := by decide +kernel

/-- C-33. -/
theorem test_crcPay_empty :
    after .crcPay { State.reset with acc := 0x123456#24 } (·.acc) = some 0x123456#24 := by decide

/-- C-20. -/
theorem test_crcCheck_ok :
    after .crcCheck { State.reset with claimed := 0xB704CE#24 } (fun s => resultWord s.result) = some 1#32 := by decide

/-- C-29. -/
theorem test_crcCheck_mismatch :
    after .crcCheck { State.reset with acc := 0x21CF02#24, claimed := 0x21CF03#24, payLen := 9#32 }
      (fun s => (resultWord s.result, s.payLen, s.acc, s.claimed)) = some (5#32, 0#32, 0x21CF02#24, 0x21CF03#24) := by decide

/-- A-2. -/
theorem test_armSplit_ok :
    after .armSplit (loaded textA2) (fun s => (s.segCount, s.seg0, s.seg1, resultWord s.result)) =
      some (2#32, 0x00020001#32, 0x00040006#32, 1#32) := by decide

/-- A-3. -/
theorem test_armSplit_one :
    after .armSplit (loaded textOneSeg) (fun s => (s.segCount, s.seg0, s.seg1, resultWord s.result, s.errInfo)) =
      some (1#32, 0x00040001#32, 0#32, 2#32, 1#32) := by decide

/-- D-1. -/
theorem test_armDecode_ok : after .armDecode (loaded textA1) (fun s => (s.payLen, payOperand s, s.claimed, s.acc)) =
      some (1#32, [0x00#8], 0x6169D3#24, 0xB704CE#24) := by decide

/-- D-9. -/
theorem test_armDecode_symbol :
    after .armDecode (loaded textD9) (fun s => (resultWord s.result, s.errInfo)) = some (0x1B#32, 0x0021000C#32) := by decide

/-- D-18, and the same text under `STRICT_TRAILING_BITS = false` (section 4.4). -/
theorem test_armDecode_trailing_bits :
    after .armDecode (loaded textD18) (fun s => (resultWord s.result, s.errInfo)) = some (0x33#32, 0x00420001#32) ∧
    after .armValidate { loaded textD18 with cfg := { Config.chosen with strictTrailingBits := false } }
      (fun s => (resultWord s.result, payOperand s)) = some (1#32, [0x00#8]) := by decide

/-- D-12, and the same text under `SKIP_WHITESPACE = true` (section 4.4). -/
theorem test_armDecode_whitespace :
    after .armDecode (loaded textD12) (fun s => (resultWord s.result, s.errInfo)) = some (0x1B#32, 0x000A0009#32) ∧
    after .armValidate { loaded textD12 with cfg := { Config.chosen with skipWhitespace := true } }
      (fun s => (resultWord s.result, payOperand s)) = some (1#32, [0x00#8]) := by decide

/-- R115, R175: no segment of whitespace alone decodes, whatever the free choice of its error. -/
theorem test_blank_segment :
    after .armValidate { loaded textBlankData with cfg := { Config.chosen with skipWhitespace := true } }
      (fun s => (s.result.kind, s.result.seg, s.payLen)) = some (Kind.decoding, false, 0#32) ∧
    after .armDecode { loaded textBlankSum with cfg := { Config.chosen with skipWhitespace := true } }
      (fun s => (s.result.kind, s.result.seg, s.payLen)) = some (Kind.decoding, true, 0#32) := ⟨rfl, rfl⟩

/-- P-1. -/
theorem test_armValidate_ok :
    after .armValidate (loaded textA1) (fun s => (resultWord s.result, s.acc, s.claimed, payOperand s)) =
      some (1#32, 0x6169D3#24, 0x6169D3#24, [0x00#8]) := by decide

/-- P-8. -/
theorem test_armValidate_mismatch :
    after .armValidate (loaded textP8) (fun s => (resultWord s.result, s.acc, s.claimed, s.payLen)) =
      some (5#32, 0xE72528#24, 0x6169D3#24, 0#32) := by decide

/-- K-2 and R174: the text stays. -/
theorem test_clear : after .clear { loaded textA1 with cmdErr := true, ie := true, acc := 0#24 }
      (fun s => (statusWord s, s.acc, s.textLen, s.ie, textOctet s 0)) = some (2#32, 0xB704CE#24, 0#32, true, 0x41#8) := by decide

/-- C-37. -/
theorem test_illegal :
    afterStep (pendingWith 0x00010002#32) (fun s => (statusWord s, s.acc)) = some (6#32, 0xB704CE#24) := by decide

/-- C-16 through `step`. -/
theorem test_withFetchWord : afterStep (State.reset.withFetchWord 16 0x4102) (·.acc) = some 0xFE86FA#24 := by decide

/-! ### The bus -/

/-- I-10. -/
theorem test_lanes : (hostRead 0x000#16 .byte State.reset).responses = [.data .byte 0x01#32] ∧
    (hostRead 0x001#16 .byte State.reset).responses = [.data .byte 0x34#32] ∧
    (hostRead 0x002#16 .half State.reset).responses = [.data .half 0x4332#32] := by decide

/-- I-9. -/
theorem test_caps : (hostRead 0x034#16 .word State.reset).responses = [.data .word 0x00400040#32] := by decide

/-- After P-8: RESULT, ACC, CLAIMED, SEG0 and SEG1 at their offsets. -/
theorem test_result_registers :
    (nextOf (exec .armValidate (loaded textP8))).map (fun s =>
      [0x010#16, 0x018#16, 0x01C#16, 0x02C#16, 0x030#16].map (fun o => (hostRead o .word s).responses)) =
      some [[.data .word 5#32], [.data .word 0xE72528#32], [.data .word 0x6169D3#32], [.data .word 0x00020000#32],
        [.data .word 0x00040005#32]] := by decide

/-- I-4. -/
theorem test_textLen_too_long :
    ((hostWrite 0x020#16 .word 65#32 State.reset).textLen, (hostWrite 0x020#16 .word 65#32 State.reset).lenErr) = (0#32, true) := by decide

/-- I-15. -/
theorem test_busy_beats_lenErr :
    (fun s : State => (s.ovr, s.lenErr)) (hostWrite 0x020#16 .word 65#32 (pendingWith 0#32)) = (true, false) := by decide

/-- I-6. -/
theorem test_half_cmd_ignored : (hostWrite 0x008#16 .half 8#32 State.reset).pending = none := by decide

/-- I-16. -/
theorem test_status_w1c : statusWord (hostWrite 0x00C#16 .word 4#32
      { State.reset with done := true, cmdErr := true, ovr := true, lenErr := true }) = 0x1A#32 := by decide

/-- I-8. -/
theorem test_misaligned_text : (hostWrite 0x4001#16 .half 0x4141#32 State.reset).responses = [.busErr] := by decide

/-- I-11, after P-11. -/
theorem test_payload_read : (nextOf (exec .armValidate (loaded textP11))).map
      (fun s => (hostRead 0x8003#16 .byte (hostRead 0x8004#16 .word (hostRead 0x8000#16 .word s))).responses) =
      some [.data .byte 0xEF#32, .data .word 0x00000000#32, .data .word 0xEFBEADDE#32] := by decide +kernel

/-- Program 5: the two runs of the racing `ACC` write. -/
theorem test_race :
    (fun s : State => (s.acc, s.ovr)) (hostWrite 0x018#16 .word 0#32 (pendingWith 1#32)) = (0xB704CE#24, true) ∧
    (fun s : State => (s.acc, s.ovr)) (hostWrite 0x018#16 .word 0#32 State.reset) = (0#24, false) := by decide

/-- Program 2. -/
theorem test_assemble_text : (HostLine.text (octets [0x33, 0x71])).assemble Config.chosen =
      some [.write 0x4000 .byte 0x33#32, .write 0x4001 .byte 0x71#32, .write 0x020 .word 2#32] := by decide

/-! ### Witnesses: the hypotheses of each statement, met -/

theorem witness_DecodeIffEncoded :
    decode 0x00004102#32 = .ok (.crcByte 0x41#8) ∧ encode (.crcByte 0x41#8) = 0x00004102#32 := by decide

theorem witness_OpcodeRowsSelect :
    0x0000FF02#32 &&& 0xFFFF00FF#32 = 0x00000002#32 ∧ 0x00000009#32 &&& 0xFFFFFFFF#32 = 0x00000009#32 := by decide

theorem witness_IllegalWordsSetCmderr :
    decode 0x0000000A#32 = .error .undefinedOpcode ∧ decode 0x000000FF#32 = .error .undefinedOpcode ∧
    decode 0x80000002#32 = .error .crcByteReserved ∧ decode 0x00000100#32 = .error .operandBitsSet ∧
    decode 0x80000009#32 = .error .operandBitsSet := by decide

theorem witness_CommandSyntaxAssembles :
    255 ≤ 255 ∧ 255 < 256 ∧ (HostLine.crcByte 255).wf = true ∧ (HostLine.crcByte 256).wf = false := by decide

theorem witness_StepRunsDecodedCommand :
    (pendingWith 1#32).pending = some 1#32 ∧ decode 1#32 = .ok .crcInit ∧ (pendingWith 1#32).agenda = [] ∧
    ({ pendingWith 1#32 with agenda := [.engine, .reset] } : State).agenda = .engine :: [.reset] ∧
    (pendingWith 0x0A#32).pending = some 0x0A#32 ∧ decode 0x0A#32 = .error .undefinedOpcode ∧
    State.reset.pending = none ∧ State.reset.agenda = [] := by decide

theorem witness_HostTurnsReachTheBus :
    ({ State.reset with agenda := [.read 0xFFFF .byte] } : State).agenda =
      .read (State.reset.cfg.base + (0xFFFF#16).toNat) .byte :: [] ∧
    ({ State.reset with agenda := [.write 0 .word 1#32] } : State).agenda =
      .write (State.reset.cfg.base + (0#16).toNat) .word 1#32 :: [] ∧
    State.reset.cfg.base + 0x10000 ≤ 0x10000 ∧
    0xFFFF < ({ Config.chosen with base := 0x10000 } : Config).base := by decide

theorem witness_PendingCommandCompletes :
    ({ pendingWith 8#32 with agenda := [.read 0x00C .word, .write 0x018 .word 0#32] } : State).pending = some 8#32 ∧
    ({ pendingWith 8#32 with agenda := [.read 0x00C .word, .write 0x018 .word 0#32] } : State).agendaReaches := by
  refine ⟨rfl, ?_⟩
  unfold State.agendaReaches
  decide

theorem witness_StepKeepsInvariant :
    (pendingWith 1#32).Inv ∧ ∃ t, step (pendingWith 1#32) = .next t := by
  refine ⟨⟨by decide, by decide, by decide, by decide, by decide, by decide, by decide, by decide, by decide,
    by decide, by decide, by decide⟩, _, rfl⟩

theorem witness_ResetMeetsInvariant :
    ({ Config.chosen with textCap := 16 } : Config).WF ∧
    ({ Config.chosen with textCap := 16384 } : Config).WF := by decide

theorem witness_StepKeepsParameters :
    (∃ t, step (pendingWith 9#32) = .next t) ∧ (pendingWith 9#32).cfg.WF := ⟨⟨_, rfl⟩, by decide⟩

theorem witness_CrcStaysBelow24Bits :
    (0xFFFFFF#32).toNat < 2 ^ 24 ∧ 7 < 8 ∧ 8 ≤ 8 := by decide

theorem witness_CrcChunking :
    ({ State.reset with acc := 0xBA353A#24 } : State).acc = 0xBA353A#24 := by decide

theorem witness_SingleBitErrorChangesCrc :
    0 < [0x68#8].length ∧ 0 < 8 ∧ 7 < 8 := by decide

theorem witness_CrcByteFoldsOneByte :
    (0x00004102#32).extractLsb' 0 8 = 0x02#8 ∧ (0x00004102#32).extractLsb' 16 16 = 0 ∧
    (0x00010002#32).extractLsb' 0 8 = 0x02#8 ∧ (0x00010002#32).extractLsb' 16 16 ≠ 0 := by decide

theorem witness_CrcTextFoldsRawText :
    State.reset.textLen = 0 := by decide

theorem witness_CrcPayFoldsPayload :
    State.reset.payLen = 0 := by decide

theorem witness_CrcCheckComparesAllBits :
    ({ State.reset with claimed := 0xB704CE#24 } : State).acc = ({ State.reset with claimed := 0xB704CE#24 } : State).claimed ∧
    State.reset.acc ≠ State.reset.claimed := by decide

theorem witness_SplitIsNonEmptyPieces :
    (⟨1, 2⟩ : Seg) ∈ split textA2 ∧ (⟨6, 4⟩ : Seg) ∈ split textA2 := by decide

theorem witness_SplitRecordFits :
    (loaded textA2).textLen.toNat ≤ 16384 ∧ (split (textOperand (loaded textA2)))[0]? = some ⟨1, 2⟩ ∧
    (split (textOperand (loaded textA2)))[1]? = some ⟨6, 4⟩ ∧ (split (textOperand State.reset))[0]? = none ∧
    (split (textOperand (loaded textOneSeg)))[1]? = none ∧ (16384#32).toNat ≤ 16384 := by decide

theorem witness_SplitCommandChecksCount :
    (split (textOperand (loaded textA2))).length = 2 ∧ (split (textOperand (loaded textOneSeg))).length ≠ 2 := by decide

theorem witness_NoDelimiterInSegments :
    (⟨1, 2⟩ : Seg) ∈ split textA2 ∧ 1 < 2 ∧ 0x3D#8 ∉ octets [0x41] ∧ octets [0x41] ≠ [] := by decide

theorem witness_Base64Alphabet :
    b64Val 0x41#8 = some 0#6 ∧ b64Val 0x5A#8 = some 25#6 ∧ b64Val 0x61#8 = some 26#6 ∧ b64Val 0x7A#8 = some 51#6 ∧
    b64Val 0x30#8 = some 52#6 ∧ b64Val 0x39#8 = some 61#6 ∧ b64Val 0x2B#8 = some 62#6 ∧ b64Val 0x2F#8 = some 63#6 ∧
    b64Val 0x3D#8 = none ∧ b64Val 0x2D#8 = none ∧ b64Val 0x5F#8 = none ∧ b64Val 0xFF#8 = none := by decide

theorem witness_Base64CheckOrder_symbol :
    Config.chosen.SpecRule ∧ 1 ≤ 4 ∧ 9 + 4 ≤ textD9.length ∧ 3 < 4 ∧ textD9[9 + 3]? = some 0x21#8 ∧
    b64Val 0x21#8 = none ∧
    (∀ j < 3, ∀ o, textD9[9 + j]? = some o → b64Val o ≠ none) := by
  refine ⟨by decide, by decide, by decide, by decide, by decide, by decide, fun j hj o ho => ?_⟩
  match j, hj with
  | 0, _ => cases ho; decide
  | 1, _ => cases ho; decide
  | 2, _ => cases ho; decide

theorem witness_Base64CheckOrder_length :
    textD15[0 + 1 - 1]? = some 0x41#8 ∧ b64Val 0x41#8 = some 0#6 ∧ 1 % 4 = 1 ∧ 0 + 1 ≤ textD15.length ∧
    (∀ j < 1, ∀ o, textD15[0 + j]? = some o → b64Val o ≠ none) := by
  refine ⟨by decide, by decide, by decide, by decide, fun j hj o ho => ?_⟩
  match j, hj with
  | 0, _ => cases ho; decide

theorem witness_Base64CheckOrder_last :
    (2 % 4 = 2 ∧ b64Val 0x42#8 = some 1#6 ∧ 1#6 &&& 0x0F#6 ≠ 0 ∧ textD18[0 + 2 - 1]? = some 0x42#8) ∧
    (3 % 4 = 3 ∧ b64Val 0x6E#8 = some 39#6 ∧ 39#6 &&& 0x03#6 ≠ 0 ∧ textD21[4 + 3 - 1]? = some 0x6E#8) ∧
    (2 % 4 = 2 ∧ b64Val 0x41#8 = some 0#6 ∧ 0#6 &&& 0x0F#6 = 0 ∧ textA1[0 + 2 - 1]? = some 0x41#8) ∧
    4 % 4 = 0 ∧ textA1[5 + 4 - 1]? = some 0x54#8 := by decide

theorem witness_Base64DecodedLength :
    b64Decode Config.chosen textA1 ⟨0, 2⟩ = .ok [0x00#8] ∧
    b64Decode Config.chosen textA1 ⟨5, 4⟩ = .ok [0x61#8, 0x69#8, 0xD3#8] ∧
    b64Decode Config.chosen (octets [0x41, 0x41, 0x41]) ⟨0, 3⟩ = .ok [0x00#8, 0x00#8] ∧
    b64Decode { Config.chosen with skipWhitespace := true } (octets [0x41, 0x20, 0x41]) ⟨0, 3⟩ = .ok [0x00#8] := by decide

theorem witness_OnlyCanonicalBase64Decodes :
    Config.chosen.SpecRule ∧ 0 + 2 ≤ textA1.length ∧ (textA1.drop 0).take 2 = b64Encode [0x00#8] := by decide

theorem witness_ArmorRoundTrip :
    [0x00#8] ≠ [] ∧ textOperand (loaded textA1) = armoredText [0x00#8] := by decide

theorem witness_StructuralErrorOutcome :
    (split (textOperand (loaded textOneSeg))).length ≠ 2 ∧ (loaded textOneSeg).textLen.toNat ≤ 16384 ∧
    (split (textOperand State.reset)).length ≠ 2 := by decide

theorem witness_DecodingErrorOutcome :
    split (textOperand (loaded textD18)) = [⟨0, 2⟩, ⟨3, 4⟩] ∧
    b64Decode Config.chosen (textOperand (loaded textD18)) ⟨0, 2⟩ = .error ⟨.invalidLastSymbol, 1, 0x42#8⟩ ∧
    split (textOperand (loaded textD9)) = [⟨0, 7⟩, ⟨9, 4⟩] ∧
    b64Decode Config.chosen (textOperand (loaded textD9)) ⟨0, 7⟩ = .ok [0x68#8, 0x65#8, 0x6C#8, 0x6C#8, 0x6F#8] ∧
    b64Decode Config.chosen (textOperand (loaded textD9)) ⟨9, 4⟩ = .error ⟨.invalidSymbol, 12, 0x21#8⟩ := by decide

theorem witness_ChecksumFormatOutcome :
    split (textOperand (loaded textP4)) = [⟨0, 4⟩, ⟨5, 2⟩] ∧
    b64Decode Config.chosen (textOperand (loaded textP4)) ⟨0, 4⟩ = .ok [0x61#8, 0x69#8, 0xD3#8] ∧
    b64Decode Config.chosen (textOperand (loaded textP4)) ⟨5, 2⟩ = .ok [0x00#8] ∧ [0x00#8].length ≠ 3 ∧
    (loaded textP4).textLen.toNat ≤ 16384 := by decide

theorem witness_DecodeStoresPayload :
    split (textOperand (loaded textA1)) = [⟨0, 2⟩, ⟨5, 4⟩] ∧
    b64Decode Config.chosen (textOperand (loaded textA1)) ⟨0, 2⟩ = .ok [0x00#8] ∧
    b64Decode Config.chosen (textOperand (loaded textA1)) ⟨5, 4⟩ = .ok [0x61#8, 0x69#8, 0xD3#8] := by decide

theorem witness_ValidateComparesChecksum :
    crc24 [0x00#8] = (0x61#8 ++ 0x69#8 ++ 0xD3#8 : Word24).setWidth 32 ∧
    split (textOperand (loaded textP8)) = [⟨0, 2⟩, ⟨5, 4⟩] ∧
    b64Decode Config.chosen (textOperand (loaded textP8)) ⟨0, 2⟩ = .ok [0x01#8] ∧
    crc24 [0x01#8] ≠ (0x61#8 ++ 0x69#8 ++ 0xD3#8 : Word24).setWidth 32 := by decide

theorem witness_ValidateIsItsThreeSteps :
    after .armDecode (loaded textA1) (·.result.kind) = some Kind.ok ∧
    after .armDecode (loaded textD18) (·.result.kind) = some Kind.decoding := by decide

theorem witness_NoOkWithEmptyPayload :
    after .armDecode (loaded textA1) (·.result.kind) = some Kind.ok ∧
    after .armValidate (loaded textA1) (·.result.kind) = some Kind.ok ∧
    after .armDecode { loaded textD12 with cfg := { Config.chosen with skipWhitespace := true } } (·.result.kind) =
      some Kind.ok := by decide

theorem witness_NoPartialResults :
    after .armDecode (loaded textA1) (·.result.kind) = some Kind.ok ∧
    after .armDecode (loaded textP4) (·.result.kind) = some Kind.checksumFormat ∧
    after .armValidate (loaded textP8) (·.result.kind) = some Kind.checksumMismatch ∧
    after .armSplit (loaded textOneSeg) (·.result.kind) = some Kind.structural ∧
    after .armDecode (loaded textD18) (·.result.kind) = some Kind.decoding := by decide

theorem witness_DecodeDependsOnTextAlone :
    (loaded textA1).cfg = (loaded textA1).cfg ∧
    (loaded textA1).textLen = ({ loaded textA1 with acc := 0#24, claimed := 1#24 } : State).textLen ∧
    (∀ k < 10, textOctet (loaded textA1) k =
      textOctet { loaded textA1 with acc := 0#24, claimed := 1#24, text := Memory.writeBytes [] 0 (textA1 ++ [0x41#8]) } k) ∧
    after .armValidate (loaded textA1) (·.result.kind) = some Kind.ok := by decide

theorem witness_CrcCommandsFrame :
    ∃ b : Byte, Instr.crcByte 0x41#8 = .crcByte b := ⟨_, rfl⟩

theorem witness_EveryCommandCompletes :
    Instr.nop ≠ .clear := by decide

theorem witness_MisalignedAccessIsBusError :
    (0xFFFF#16).toNat % Width.half.bytes ≠ 0 ∧ (0x002#16).toNat % Width.word.bytes ≠ 0 := by decide

theorem witness_LanesAreLittleEndian :
    State.reset.busy = false ∧ (0xFFFC#16).toNat % 4 = 0 ∧ 60 < 0x4000 ∧ 60 % Width.word.bytes = 0 ∧
    3 < Width.word.bytes ∧
    60 + 3 < State.reset.cfg.textCap ∧ State.reset.registers.length = 14 ∧
    (0x034#16, 0x00400040#32) ∈ State.reset.registers ∧ 3 < 4 ∧ 3 % Width.byte.bytes = 0 ∧
    2 % Width.half.bytes = 0 := by decide

theorem witness_IgnoredRegisterWrites :
    (0x037#16).toNat < 0x38 ∧ (0x037#16).toNat % Width.byte.bytes = 0 ∧ Width.byte ≠ .word ∧
    (0x034#16).toNat % Width.word.bytes = 0 ∧
    (0x034#16).toNat ∈ [0x000, 0x010, 0x014, 0x024, 0x028, 0x02C, 0x030, 0x034] ∧
    (0x000#16).toNat ∈ [0x000, 0x010, 0x014, 0x024, 0x028, 0x02C, 0x030, 0x034] := by decide

theorem witness_ReservedSpaceReadsZero :
    (0x38 ≤ (0x38#16).toNat ∧ (0x38#16).toNat < 0x4000 ∧ (0x38#16).toNat % Width.word.bytes = 0) ∧
    (0x3FFF#16).toNat < 0x4000 ∧ 0xC000 ≤ (0xC000#16).toNat ∧ 0xC000 ≤ (0xFFFF#16).toNat ∧
    (0xFFFF#16).toNat % Width.byte.bytes = 0 ∧
    (0x03A#16).toNat % Width.word.bytes ≠ 0 ∧ (0xC001#16).toNat % Width.half.bytes ≠ 0 := by decide

theorem witness_TextWindowAccess :
    0x3FFF < 0x4000 ∧ 0x3FFF % Width.byte.bytes = 0 ∧ 62 % Width.half.bytes = 0 ∧ State.reset.busy = false ∧
    (pendingWith 0#32).busy = true ∧ 63 < State.reset.cfg.textCap := by decide

theorem witness_PayloadWindowAccess :
    0x3FFF < 0x4000 ∧ 0x3FFF % Width.byte.bytes = 0 ∧ 0 % Width.word.bytes = 0 ∧ State.reset.busy = false ∧
    (pendingWith 0#32).busy = true := by decide

theorem witness_BusyDropsWrites :
    (pendingWith 0#32).busy = true ∧ (0x008#16).toNat ∈ [0x008, 0x018, 0x01C, 0x020] ∧
    (0x008#16).toNat % Width.word.bytes = 0 ∧
    (0x4000 ≤ (0x4000#16).toNat ∧ (0x7FFF#16).toNat < 0x8000) ∧
    ¬((Width.word = .word ∧ (0x00C#16).toNat ∈ [0x008, 0x018, 0x01C, 0x020]) ∨
      (0x4000 ≤ (0x00C#16).toNat ∧ (0x00C#16).toNat < 0x8000)) ∧
    (0x004#16).toNat ∉ [0x008, 0x018, 0x01C, 0x020] := by decide

theorem witness_TextLenWriteChecksCapacity :
    State.reset.busy = false ∧ State.reset.cfg.textCap < (65#32).toNat ∧
    (64#32).toNat ≤ State.reset.cfg.textCap := by decide

theorem witness_CommandAcceptance :
    State.reset.pending = none ∧ (pendingWith 0#32).pending ≠ none := by decide

theorem witness_AccAndClaimedStore24Bits :
    State.reset.busy = false := by decide

theorem witness_BusyReadsOfResultsAreUnspecified :
    (pendingWith 0#32).busy = true ∧ (0x010#16).toNat % Width.word.bytes = 0 ∧ (0x01F#16).toNat < 0x020 ∧
    0x024 ≤ (0x024#16).toNat ∧ (0x033#16).toNat < 0x034 ∧ 0x8000 ≤ (0x8000#16).toNat ∧ (0xBFFF#16).toNat < 0xC000 ∧
    (0x00C#16, 1#32) ∈ (pendingWith 0#32).registers ∧ 3 < 4 ∧ 3 % Width.byte.bytes = 0 ∧
    (0x38 ≤ (0x38#16).toNat ∧ (0x3FFF#16).toNat < 0x4000 ∧ (0x38#16).toNat % Width.word.bytes = 0) ∧
    0xC000 ≤ (0xC000#16).toNat ∧ 0x3FFF < 0x4000 ∧ 0x3FFF % Width.byte.bytes = 0 := by decide

theorem witness_InterruptOutput :
    ({ State.reset with ie := true, done := true } : State).irq = true ∧ (2#32).getLsbD 1 = true ∧
    (0#32).getLsbD 0 = false ∧
    State.reset.pending = none := by decide

theorem witness_ResetSetsEveryRegister :
    ({ pendingWith 8#32 with agenda := [.reset, .engine] } : State).agenda = .reset :: [.engine] := by decide

theorem witness_StickyFlagsClearedOnlyByTheirEvents :
    afterStep { State.reset with ovr := true, agenda := [.write 0x00C .word 8#32] } (·.ovr) = some false ∧
    afterStep { pendingWith 9#32 with cmdErr := true } (·.cmdErr) = some false ∧
    afterStep { State.reset with lenErr := true, agenda := [.reset] } (·.lenErr) = some false := by decide

theorem witness_FlagsSetOnlyByTheirEvents :
    afterStep (pendingWith 0#32) (·.done) = some true ∧ afterStep (pendingWith 0x0A#32) (·.cmdErr) = some true ∧
    afterStep { pendingWith 0#32 with agenda := [.write 0x008 .word 1#32] } (·.ovr) = some true ∧
    afterStep { pendingWith 0#32 with agenda := [.write 0x7FFF .byte 1#32] } (·.ovr) = some true ∧
    afterStep { State.reset with agenda := [.write 0x020 .word 65#32] } (·.lenErr) = some true ∧
    afterStep { State.reset with agenda := [.write 0x008 .word 1#32] } (·.busy) = some true := by decide

theorem witness_BusyProtectsInputs :
    (pendingWith 0#32).busy = true ∧ Turn.write 0x018 .word 0#32 ≠ .engine ∧ Turn.write 0x018 .word 0#32 ≠ .reset ∧
    afterStep { pendingWith 0#32 with agenda := [.write 0x018 .word 0#32] } (·.acc) = some 0xB704CE#24 := by decide

end Sys2Proof.Tests
end

section
/-! PROOFS. The state family (10_state.md): what one transition does to the parameters, to the flags and to the invariant of R42, each from the inversion of `step` in Laws/Step.lean. -/

namespace Sys2Proof.Machine

variable {s t u : State}

/-! ### Shared operations -/

/-- A read changes nothing but the record of answers and the number of draws (R71). -/
theorem hostRead_eq_record (off : Offset) (n : Width) (s : State) :
    ∃ rs d, hostRead off n s = { s with responses := rs, draws := d } := by
  rcases hostRead_cases off n s with ⟨-, h⟩ | ⟨-, -, -, h⟩ | ⟨-, -, h⟩ <;> exact ⟨_, _, h⟩

/-- An aligned write is ignored, or runs the action of the register it names whole, or that of the TEXT window. -/
theorem poke_aligned_cases {off : Offset} {n : Width} (ha : aligned off n = true) (v : Word) (s : State) :
    poke off n v s = s ∨
    (∃ r : Reg, n = .word ∧ off.toNat = r.offset ∧ poke off n v s = writeReg r v s) ∨
    (∃ i, poke off n v s = unlessBusy (writeText i n v) s) := by
  unfold poke
  split
  · rename_i r hr
    split
    · rename_i hn
      subst hn
      have hq := ((regionOf_register_iff off r).1 hr).2
      have h0 : off.toNat % 4 = 0 := (aligned_iff off .word).1 ha
      have h4 : r.offset % 4 = 0 := by cases r <;> rfl
      exact .inr (.inl ⟨r, rfl, by omega, rfl⟩)
    · exact .inl rfl
  · exact .inl rfl
  · exact .inr (.inr ⟨_, rfl⟩)
  · exact .inl rfl

/-- An action that keeps a field the drop of a busy write keeps too, keeps it under `unlessBusy`. -/
theorem unlessBusy_keeps {α : Type} (f : State → α) {act : State → State} (hd : f (dropWrite s) = f s)
    (ha : f (act s) = f s) : f (unlessBusy act s) = f s := by
  rcases unlessBusy_cases act s with ⟨-, h⟩ | ⟨-, h⟩ <;> rw [h]
  · exact hd
  · exact ha

theorem unlessBusy_of_idle (act : State → State) (hb : s.busy = false) : unlessBusy act s = act s := by
  simp [unlessBusy, hb]

/-- The state in which `decode_armor` ends or goes on has the inputs of the command. -/
theorem keepsInputs_decodeArmor (h : decodeArmor s = .error u ∨ decodeArmor s = .ok u) : s.KeepsInputs u := by
  have hc := decodeArmor_cases s
  have hr (segs : List Seg) := keepsInputs_recordSplit segs s
  generalize decodeArmor s = r at h hc
  cases hc with
  | structural | data | checksum | format =>
    obtain rfl : _ = u := by simpa using h
    exact keepsInputs_trans (hr _) (keepsInputs_raiseOutcome ..)
  | decoded =>
    obtain rfl : _ = u := by simpa using h
    exact keepsInputs_trans (hr _) (keepsInputs_storeDecoded ..)

theorem splitText_eq (s : State) :
    splitText s =
      if (split (textOperand s)).length = 2 then finishOk (recordSplit (split (textOperand s)) s)
      else raiseStructural (split (textOperand s)).length (recordSplit (split (textOperand s)) s) := rfl

/-- Every command ends in a completion, of `clearState` for `CLEAR` and else of a state with the command's inputs
(R204). -/
theorem exec_eq_complete (i : Instr) (s : State) :
    ∃ u, exec i s = .next (complete u) ∧ (i = .clear ∧ u = clearState s ∨ s.KeepsInputs u) := by
  cases i with
  | nop => exact ⟨_, exec_nop s, .inr (keepsInputs_refl s)⟩
  | crcInit => exact ⟨_, exec_crcInit s, .inr (keepsInputs_setAcc ..)⟩
  | crcByte b => exact ⟨_, exec_crcByte b s, .inr (keepsInputs_setAcc ..)⟩
  | crcText => exact ⟨_, exec_crcText s, .inr (keepsInputs_setAcc ..)⟩
  | crcPay => exact ⟨_, exec_crcPay s, .inr (keepsInputs_setAcc ..)⟩
  | crcCheck => exact ⟨_, exec_crcCheck s, .inr (keepsInputs_compareClaim s)⟩
  | armSplit =>
    refine ⟨_, exec_armSplit s, .inr ?_⟩
    have hr := keepsInputs_recordSplit (split (textOperand s)) s
    rw [splitText_eq]
    split
    · exact keepsInputs_trans hr (keepsInputs_finishOk _)
    · exact keepsInputs_trans hr (keepsInputs_raiseOutcome ..)
  | armDecode =>
    rw [exec_armDecode]
    split
    · exact ⟨_, rfl, .inr (keepsInputs_decodeArmor (.inl ‹_›))⟩
    · exact ⟨_, rfl, .inr (keepsInputs_trans (keepsInputs_decodeArmor (.inr ‹_›)) (keepsInputs_finishOk _))⟩
  | armValidate =>
    rw [exec_armValidate]
    split
    · exact ⟨_, rfl, .inr (keepsInputs_decodeArmor (.inl ‹_›))⟩
    · exact ⟨_, rfl, .inr (keepsInputs_trans (keepsInputs_decodeArmor (.inr ‹_›))
        (keepsInputs_trans (keepsInputs_setAcc ..) (keepsInputs_compareClaim _)))⟩
  | clear => exact ⟨_, exec_clear s, .inl ⟨rfl, rfl⟩⟩

/-- The agents' turns after which `t` stands: `StepCase` for a step that answers a next state, with the offset each host
turn names. -/
inductive NextCase (s : State) : State → Prop where
  | idle (ht : s.agenda = [] ∨ ∃ rest, s.agenda = .engine :: rest) (hp : s.pending = none) : NextCase s s.turned
  | command (ht : s.agenda = [] ∨ ∃ rest, s.agenda = .engine :: rest) (w : Word) (hp : s.pending = some w) (i : Instr)
      (hd : decode w = .ok i) (t : State) (he : exec i s.turned = .next t) : NextCase s t
  | illegal (ht : s.agenda = [] ∨ ∃ rest, s.agenda = .engine :: rest) (w : Word) (hp : s.pending = some w)
      (c : IllegalWord) (hd : decode w = .error c) : NextCase s (illegalCommand s.turned)
  | read (off : Offset) (n : Width) (rest : List Turn) (ht : s.agenda = .read (s.cfg.base + off.toNat) n :: rest) :
      NextCase s (hostRead off n s.turned)
  | write (off : Offset) (n : Width) (v : Word) (rest : List Turn)
      (ht : s.agenda = .write (s.cfg.base + off.toNat) n v :: rest) : NextCase s (hostWrite off n v s.turned)
  | reset (rest : List Turn) (ht : s.agenda = .reset :: rest) : NextCase s (resetMachine s.turned)

theorem next_cases (h : step s = .next t) : NextCase s t := by
  have hc := step_cases s
  generalize step s = r at h hc
  cases hc with
  | idle ht hp => cases h; exact .idle ht hp
  | command ht w hp i hd => exact .command ht w hp i hd t h
  | illegal ht w hp c hd => cases h; exact .illegal ht w hp c hd
  | read addr n rest ht off ho => cases h; exact .read off n rest (offsetOf_eq_some ho ▸ ht)
  | write addr n v rest ht off ho => cases h; exact .write off n v rest (offsetOf_eq_some ho ▸ ht)
  | outside => cases h
  | reset rest ht => cases h; exact .reset rest ht

/-! ### The invariant: one lemma an update -/

theorem inv_resetOf {c : Config} (h : c.WF) : (State.resetOf c).Inv := by
  constructor
  case cfg_wf => exact h
  all_goals simp [State.resetOf]

theorem inv_resetMachine (h : s.Inv) : (resetMachine s).Inv := { inv_resetOf h.cfg_wf with }

theorem inv_turned (h : s.Inv) : s.turned.Inv := { h with }

theorem inv_respond (h : s.Inv) (r : BusResp) : (respond r s).Inv := { h with }

theorem inv_hostRead (h : s.Inv) (off : Offset) (n : Width) : (hostRead off n s).Inv := by
  obtain ⟨rs, d, he⟩ := hostRead_eq_record off n s
  rw [he]
  exact { h with }

theorem inv_complete (h : s.Inv) : (complete s).Inv := { h with busy_not_done := by simp }

theorem inv_illegalCommand (h : s.Inv) : (illegalCommand s).Inv := inv_complete { h with }

theorem inv_setAcc (h : s.Inv) (v : Word) : (setAcc v s).Inv := { h with }

theorem inv_recordSplit (h : s.Inv) (segs : List Seg) : (recordSplit segs s).Inv := { h with }

theorem inv_finishOk (h : s.Inv) : (finishOk s).Inv :=
  { h with
    detail_only_decoding := by simp
    errInfo_top := by simp
    payload_only_ok := by simp }

theorem inv_clearState (h : s.Inv) : (clearState s).Inv :=
  { h with
    textLen_le := by simp
    payLen_le := by simp
    detail_only_decoding := by simp
    errInfo_top := by simp
    payload_wf := by simp
    payload_below := by simp
    payload_stored := by simp
    payload_only_ok := by simp }

/-- A failure leaves no payload, so it needs only a record of its own kind. -/
theorem inv_raiseOutcome (h : s.Inv) {k : Kind} {g : Bool} {d : Detail} {i : Word}
    (hk : k ≠ .decoding → g = false ∧ d = .noDetail) (hi : i.extractLsb' 24 8 = 0) : (raiseOutcome k g d i s).Inv :=
  { h with
    payLen_le := by simp
    detail_only_decoding := by simpa using hk
    errInfo_top := by simpa using hi
    payload_wf := by simp
    payload_below := by simp
    payload_stored := by simp
    payload_only_ok := by simp }

/-- A text within its capacity is shorter than 2^15 octets (R8). -/
theorem State.Inv.textLen_lt (h : s.Inv) : s.textLen.toNat < 2 ^ 15 := by
  obtain ⟨-, hle, -⟩ := h.cfg_wf
  have := h.textLen_le
  omega

/-- A number below 2^24 leaves bits 31 to 24 clear (R29). -/
theorem extractLsb'_top_eq_zero {i : Word} (h : i.toNat < 2 ^ 24) : i.extractLsb' 24 8 = 0 := by
  apply BitVec.eq_of_toNat_eq
  simp [BitVec.extractLsb'_toNat, Nat.shiftRight_eq_div_pow]
  omega

theorem inv_raiseStructural (h : s.Inv) {count : Nat} (hn : count < 2 ^ 24) : (raiseStructural count s).Inv :=
  inv_raiseOutcome h (by simp) (extractLsb'_top_eq_zero (by simp; omega))

theorem inv_raiseFormat (h : s.Inv) {n : Nat} (hn : n < 2 ^ 24) : (raiseFormat n s).Inv :=
  inv_raiseOutcome h (by simp) (extractLsb'_top_eq_zero (by simp; omega))

/-- The offset fills bits 15 to 0 and the octet bits 23 to 16 of `ERR_INFO` (R193). -/
theorem inv_raiseDecoding (h : s.Inv) (seg : Bool) {e : DecodeErr} (ho : e.off < 2 ^ 16) :
    (raiseDecoding seg e s).Inv := by
  refine inv_raiseOutcome h (by simp) (extractLsb'_top_eq_zero ?_)
  have hb := e.octet.isLt
  rw [BitVec.toNat_or]
  refine Nat.or_lt_two_pow ?_ ?_
  · simp; omega
  · simp [Nat.shiftLeft_eq]; omega

/-- The comparison records `OK` or a mismatch whatever stood in `RESULT`: `finishOk s` is `s` with no record to keep. -/
theorem inv_compareClaim (h : (finishOk s).Inv) : (compareClaim s).Inv := by
  rw [compareClaim_eq]
  split
  · exact h
  · exact inv_raiseOutcome (s := finishOk s) h (by simp) (by simp)

/-- The payload stored within the capacity is visible whole, under the `OK` that follows (R118, R196). -/
theorem inv_finishOk_storeDecoded (h : s.Inv) {d : List Byte} (claim : Word24) (hd : d.length ≤ s.textLen.toNat) :
    (finishOk (storeDecoded d claim s)).Inv := by
  have hc : d.length ≤ s.cfg.payCap := hd.trans h.textLen_le
  have hl : (BitVec.ofNat 32 d.length).toNat = d.length := by
    have := s.textLen.isLt
    simp; omega
  exact
    { inv_finishOk h with
      payLen_le := by simpa [hl] using hc
      payload_wf := Memory.wf_writeBytes h.payload_wf 0 d
      payload_below := fun x hx => by
        rcases Memory.mem_writeBytes hx with hx | hx
        · simp at hx ⊢; omega
        · exact h.payload_below x hx
      payload_stored := fun i hi => by
        replace hi : i < d.length := by simpa [hl] using hi
        simp [Memory.lookup_writeBytes, hi]
      payload_only_ok := by simp }

/-! ### The invariant along a command, a write and a transition -/

theorem le_textLen_of_mem_split {g : Seg} (h : g ∈ split (textOperand s)) : g.start + g.len ≤ s.textLen.toNat := by
  simpa using (split_bound h).2

/-- What `decode_armor` raises meets the invariant; what it goes on with does so under the `OK` that follows. -/
theorem inv_decodeArmor (h : s.Inv) :
    (∀ u, decodeArmor s = .error u → u.Inv) ∧ (∀ u, decodeArmor s = .ok u → (finishOk u).Inv) := by
  have hlt := h.textLen_lt
  have hr (segs : List Seg) := inv_recordSplit h segs
  have bound : ∀ {g0 g1 g : Seg}, split (textOperand s) = [g0, g1] → g ∈ [g0, g1] →
      g.start + g.len ≤ s.textLen.toNat := fun hs hg => le_textLen_of_mem_split (hs ▸ hg)
  have hc := decodeArmor_cases s
  generalize decodeArmor s = r at hc
  refine ⟨?_, ?_⟩ <;> rintro u rfl <;> cases hc
  case refine_1.structural segs hs hn =>
    have := split_length (textOperand s)
    rw [hs, length_textOperand] at this
    exact inv_raiseStructural (hr _) (by omega)
  case refine_1.data g0 g1 hs e he =>
    have := bound hs (g := g0) (by simp)
    have := b64Decode_error_off he
    exact inv_raiseDecoding (hr _) _ (by omega)
  case refine_1.checksum g0 g1 hs d e hd he =>
    have := bound hs (g := g1) (by simp)
    have := b64Decode_error_off he
    exact inv_raiseDecoding (hr _) _ (by omega)
  case refine_1.format g0 g1 hs d c hd hc hn =>
    have := bound hs (g := g1) (by simp)
    have := length_le_of_b64Decode hc
    exact inv_raiseFormat (hr _) (by omega)
  case refine_2.decoded g0 g1 hs d c0 c1 c2 hd hc =>
    have := bound hs (g := g0) (by simp)
    have := length_le_of_b64Decode hd
    exact inv_finishOk_storeDecoded (hr _) _ (by simp; omega)

theorem inv_splitText (h : s.Inv) : (splitText s).Inv := by
  have hr := inv_recordSplit h (split (textOperand s))
  rw [splitText_eq]
  split
  · exact inv_finishOk hr
  · have := h.textLen_lt
    have := split_length (textOperand s)
    rw [length_textOperand] at this
    exact inv_raiseStructural hr (by omega)

theorem inv_exec (h : s.Inv) {i : Instr} (he : exec i s = .next t) : t.Inv := by
  obtain ⟨herror, hok⟩ := inv_decodeArmor h
  cases i with
  | nop => cases he; exact inv_complete h
  | crcInit => cases he; exact inv_complete (inv_setAcc h _)
  | crcByte b => cases he; exact inv_complete (inv_setAcc h _)
  | crcText => cases he; exact inv_complete (inv_setAcc h _)
  | crcPay => cases he; exact inv_complete (inv_setAcc h _)
  | crcCheck => cases he; exact inv_complete (inv_compareClaim (inv_finishOk h))
  | armSplit => cases he; exact inv_complete (inv_splitText h)
  | armDecode =>
    rw [exec_armDecode] at he
    split at he <;> cases he
    · exact inv_complete (herror _ ‹_›)
    · exact inv_complete (hok _ ‹_›)
  | armValidate =>
    rw [exec_armValidate] at he
    split at he <;> cases he
    · exact inv_complete (herror _ ‹_›)
    · exact inv_complete (inv_compareClaim (inv_setAcc (hok _ ‹_›) _))
  | clear => cases he; exact inv_complete (inv_clearState h)

theorem inv_poke (h : s.Inv) (off : Offset) (n : Width) (v : Word) : (poke off n v s).Inv := by
  have hc := poke_cases off n v s
  generalize poke off n v s = u at hc
  cases hc with
  | ignored => exact h
  | ctrl => exact { h with }
  | status v => exact { h with busy_not_done := fun hb => by simp [h.busy_not_done hb] }
  | dropped => exact { h with }
  | accepted => exact { h with busy_not_done := by simp }
  | acc => exact { h with }
  | claimed => exact { h with }
  | tooLong => exact { h with }
  | textLen v _ hv => exact { h with textLen_le := hv }
  | text i n v =>
    exact
      { h with
        text_wf := Memory.wf_writeBelow h.text_wf ..
        text_below := fun x hx => (Memory.mem_writeBelow hx).elim id (h.text_below x) }

theorem inv_hostWrite (h : s.Inv) (off : Offset) (n : Width) (v : Word) : (hostWrite off n v s).Inv := by
  rcases hostWrite_cases off n v s with ⟨-, he⟩ | ⟨-, he⟩ <;> rw [he]
  · exact inv_respond h _
  · exact inv_respond (inv_poke h off n v) _

theorem inv_step (h : s.Inv) (hs : step s = .next t) : t.Inv := by
  have ht := inv_turned h
  cases next_cases hs with
  | idle => exact ht
  | command _ _ _ _ _ _ he => exact inv_exec ht he
  | illegal => exact inv_illegalCommand ht
  | read => exact inv_hostRead ht ..
  | write => exact inv_hostWrite ht ..
  | reset => exact inv_resetMachine ht

/-- Settles O9, by the kinds of a transition, each an update that keeps the invariant. -/
theorem stepKeepsInvariant : Obligations.StepKeepsInvariant := fun _ _ h hs => inv_step h hs

/-- Settles O10: the chosen parameters are legal, and reset clears what the other clauses speak of. -/
theorem resetMeetsInvariant : Obligations.ResetMeetsInvariant :=
  ⟨inv_resetOf (by decide), fun _ h => inv_resetOf h⟩

/-! ### The parameters (R44) -/

theorem cfg_of_exec {i : Instr} (he : exec i s = .next t) : t.cfg = s.cfg := by
  obtain ⟨u, hu, hk⟩ := exec_eq_complete i s
  cases hu.symm.trans he
  rcases hk with ⟨-, rfl⟩ | hk
  · rfl
  · exact hk.cfg

theorem poke_cfg (off : Offset) (n : Width) (v : Word) (s : State) : (poke off n v s).cfg = s.cfg := by
  have hc := poke_cases off n v s
  generalize poke off n v s = u at hc
  cases hc <;> rfl

theorem hostWrite_cfg (off : Offset) (n : Width) (v : Word) (s : State) : (hostWrite off n v s).cfg = s.cfg := by
  rcases hostWrite_cases off n v s with ⟨-, h⟩ | ⟨-, h⟩ <;> rw [h]
  · rfl
  · exact poke_cfg ..

theorem hostRead_cfg (off : Offset) (n : Width) (s : State) : (hostRead off n s).cfg = s.cfg := by
  obtain ⟨rs, d, h⟩ := hostRead_eq_record off n s
  rw [h]

theorem step_cfg (hs : step s = .next t) : t.cfg = s.cfg := by
  cases next_cases hs with
  | idle => rfl
  | command _ _ _ _ _ _ he => exact cfg_of_exec (s := s.turned) he
  | illegal => rfl
  | read => exact hostRead_cfg ..
  | write => exact hostWrite_cfg ..
  | reset => rfl

/-- The two capacities are legal, so neither half of `CAPS` is cut (R37). -/
theorem capsWord_toNat {c : Config} (h : c.WF) : (capsWord c).toNat = c.textCap + c.payCap * 0x10000 := by
  have hn : (BitVec.ofNat 16 c.textCap).toNat = c.textCap := by
    obtain ⟨-, hle, -⟩ := h
    simp; omega
  have hlt : c.textCap < 2 ^ 16 := hn ▸ BitVec.isLt _
  rw [capsWord_eq, BitVec.toNat_append, hn, ← Nat.shiftLeft_add_eq_or_of_lt hlt, Nat.shiftLeft_eq, Config.payCap]
  omega

/-- Settles O11: no transition changes the parameters, and the two constants are read at their registers' offsets. -/
theorem stepKeepsParameters : Obligations.StepKeepsParameters := by
  intro s t hs
  have hc := step_cfg hs
  refine ⟨hc, ?_, ?_, fun hw => ?_⟩
  · exact hostRead_register t 0x000#16 .id (by simp [Reg.volatile]) rfl
  · rw [hostRead_register t 0x034#16 .caps (by simp [Reg.volatile]) rfl, readReg, capsWord_eq, ← hc]
    rfl
  · rw [readReg, hc, capsWord_toNat hw]

/-! ### Register values -/

/-- The bits of `STATUS`; those above `LENERR` are 0 (R27). -/
theorem statusWord_bits (s : State) :
    (statusWord s).getLsbD 0 = s.busy ∧ (statusWord s).getLsbD 1 = s.done ∧ (statusWord s).getLsbD 2 = s.cmdErr ∧
      (statusWord s).getLsbD 3 = s.ovr ∧ (statusWord s).getLsbD 4 = s.lenErr ∧ (statusWord s).toNat < 2 ^ 5 := by
  have bits : ∀ l o c d b : Bool,
      let w : Word :=
        0#27 ++ BitVec.ofBool l ++ BitVec.ofBool o ++ BitVec.ofBool c ++ BitVec.ofBool d ++ BitVec.ofBool b
      w.getLsbD 0 = b ∧ w.getLsbD 1 = d ∧ w.getLsbD 2 = c ∧ w.getLsbD 3 = o ∧ w.getLsbD 4 = l ∧ w.toNat < 2 ^ 5 := by
    decide
  rw [statusWord_eq]
  exact bits ..

/-- Settles O53: the write runs `writeStatus`, whose flags the bits of `STATUS` show. -/
theorem statusWriteOneToClear : Obligations.StatusWriteOneToClear := by
  intro s v
  obtain ⟨h0, h1, h2, h3, h4, hlt⟩ := statusWord_bits s
  have hw : hostWrite 0x00C#16 .word v s = respond .ok (writeStatus v s) := hostWrite_register s v _ .status rfl
  obtain ⟨-, w1, w2, w3, w4, -⟩ := statusWord_bits (respond .ok (writeStatus v s))
  refine ⟨h0, h1, h2, h3, h4, hlt, ?_, ⟨_, _, _, _, hw⟩⟩
  rw [hw]
  simp only [List.forall_mem_cons, readReg, h1, h2, h3, h4, w1, w2, w3, w4]
  simp

/-- While no command is pending every register is read exactly. -/
theorem hostRead_register_of_idle (hb : s.busy = false) {off : Offset} {r : Reg} (h : off.toNat = r.offset) :
    hostRead off .word s = respond (.data .word (readReg r s)) s :=
  hostRead_register s off r (by simp [hb]) h

/-- Settles O54: the write stores the low 24 bits and the read widens them, which is the mask. -/
theorem accAndClaimedStore24Bits : Obligations.AccAndClaimedStore24Bits := by
  intro s v hb
  constructor
  · rw [hostWrite_register s v 0x018#16 .acc rfl, writeReg, unlessBusy_of_idle _ hb,
      hostRead_register_of_idle (s := respond .ok (setAcc v s)) (r := .acc) hb rfl,
      readReg, accWord, respond_acc, setAcc_acc, setWidth_setWidth_24]
    rfl
  · rw [hostWrite_register s v 0x01C#16 .claimed rfl, writeReg, unlessBusy_of_idle _ hb,
      hostRead_register_of_idle (s := respond .ok (setClaimed v s)) (r := .claimed) hb rfl,
      readReg, claimedWord, respond_claimed, setClaimed_claimed, setWidth_setWidth_24]
    rfl

/-! ### What sets a flag (R41) -/

/-- The transitions that can set a flag that reset clears: the engine's over a pending word, and an aligned write. -/
inductive SetCase (s : State) : State → Prop where
  | command (ht : s.agenda = [] ∨ ∃ rest, s.agenda = .engine :: rest) (w : Word) (hp : s.pending = some w) (i : Instr)
      (hd : decode w = .ok i) (t : State) (he : exec i s.turned = .next t) : SetCase s t
  | illegal (ht : s.agenda = [] ∨ ∃ rest, s.agenda = .engine :: rest) (w : Word) (hp : s.pending = some w)
      (c : IllegalWord) (hd : decode w = .error c) : SetCase s (illegalCommand s.turned)
  | write (off : Offset) (n : Width) (v : Word) (rest : List Turn)
      (ht : s.agenda = .write (s.cfg.base + off.toNat) n v :: rest) (ha : aligned off n = true) :
      SetCase s (respond .ok (poke off n v s.turned))

/-- A transition that sets a flag `f` of the engine, which the record of the world outside does not touch. -/
theorem set_cases (f : State → Bool)
    (hf : ∀ (s : State) ag rs d, f { s with agenda := ag, responses := rs, draws := d } = f s)
    (hr : ∀ s, f (resetMachine s) = false) (hs : step s = .next t) (h0 : f s = false) (h1 : f t = true) :
    SetCase s t := by
  have hq : ∀ rs d, f { s.turned with responses := rs, draws := d } ≠ true := fun rs d => by
    simp [State.turned, hf, h0]
  cases next_cases hs with
  | idle => exact absurd h1 (hq s.responses s.draws)
  | command ht w hp i hd _ he => exact .command ht w hp i hd _ he
  | illegal ht w hp c hd => exact .illegal ht w hp c hd
  | read off n =>
    obtain ⟨rs, d, he⟩ := hostRead_eq_record off n s.turned
    exact absurd (he ▸ h1) (hq rs d)
  | write off n v rest ht =>
    rcases hostWrite_cases off n v s.turned with ⟨-, he⟩ | ⟨ha, he⟩
    · exact absurd (he ▸ h1) (hq _ s.draws)
    · rw [he]
      exact .write off n v rest ht ha
  | reset => rw [hr] at h1; cases h1

theorem completed_of_exec {i : Instr} (he : exec i s = .next t) : t.Completed := by
  obtain ⟨u, hu, -⟩ := exec_eq_complete i s
  cases hu.symm.trans he
  exact ⟨rfl, rfl⟩

/-- No command sets a sticky flag. -/
theorem exec_sets_no_sticky {i : Instr} (he : exec i s = .next t) :
    (t.cmdErr → s.cmdErr) ∧ (t.ovr → s.ovr) ∧ (t.lenErr → s.lenErr) := by
  obtain ⟨u, hu, hk⟩ := exec_eq_complete i s
  cases hu.symm.trans he
  rcases hk with ⟨-, rfl⟩ | hk
  · simp
  · simp [hk.cmdErr, hk.ovr, hk.lenErr]

/-- No write sets `DONE` or `CMDERR`. -/
theorem poke_sets_no_done_cmdErr (off : Offset) (n : Width) (v : Word) (s : State) :
    ((poke off n v s).done = true → s.done = true) ∧ ((poke off n v s).cmdErr = true → s.cmdErr = true) := by
  have hc := poke_cases off n v s
  generalize poke off n v s = u at hc
  cases hc <;> simp +contextual

/-- No register but `TEXT_LEN` has a write action that sets `LENERR`. -/
theorem writeReg_lenErr_eq_false {r : Reg} (hr : r ≠ .textLen) (v : Word) (h0 : s.lenErr = false) :
    (writeReg r v s).lenErr = false := by
  cases r with
  | textLen => exact absurd rfl hr
  | cmd | acc | claimed => exact (unlessBusy_keeps State.lenErr rfl rfl).trans h0
  | status => simp [writeReg, h0]
  | ctrl | id | result | errInfo | payLen | segCount | seg0 | seg1 | caps => exact h0

/-- No register but `CMD` has a write action that touches the pending word. -/
theorem writeReg_pending {r : Reg} (hr : r ≠ .cmd) (v : Word) (s : State) : (writeReg r v s).pending = s.pending := by
  cases r with
  | cmd => exact absurd rfl hr
  | acc | claimed => exact unlessBusy_keeps State.pending rfl rfl
  | textLen => exact unlessBusy_keeps State.pending rfl (by unfold writeTextLen; split <;> rfl)
  | ctrl | status | id | result | errInfo | payLen | segCount | seg0 | seg1 | caps => rfl

/-- Only a `TEXT_LEN` write above the capacity, with nothing pending, sets `LENERR` (R201). -/
theorem poke_sets_lenErr {off : Offset} {n : Width} {v : Word} (ha : aligned off n = true) (h0 : s.lenErr = false)
    (h1 : (poke off n v s).lenErr = true) :
    s.busy = false ∧ n = .word ∧ off.toNat = 0x020 ∧ s.cfg.textCap < v.toNat := by
  rcases poke_aligned_cases ha v s with he | ⟨r, hn, ho, he⟩ | ⟨i, he⟩ <;> rw [he] at h1
  · simp [h0] at h1
  · by_cases hr : r = .textLen
    · subst hr
      rcases unlessBusy_cases (writeTextLen v) s with ⟨-, hu⟩ | ⟨hb, hu⟩ <;> rw [writeReg, hu] at h1
      · simp [h0] at h1
      · by_cases hv : s.cfg.textCap < v.toNat
        · exact ⟨hb, hn, ho, hv⟩
        · simp [writeTextLen, hv, h0] at h1
    · simp [writeReg_lenErr_eq_false hr v h0] at h1
  · rw [unlessBusy_keeps State.lenErr rfl rfl, h0] at h1
    cases h1

/-- Only a `CMD` write makes a word pending: acceptance (R224). -/
theorem poke_sets_busy {off : Offset} {n : Width} {v : Word} (ha : aligned off n = true) (h0 : s.busy = false)
    (h1 : (poke off n v s).busy = true) : n = .word ∧ off.toNat = 0x008 ∧ poke off n v s = accept v s := by
  rcases poke_aligned_cases ha v s with he | ⟨r, hn, ho, he⟩ | ⟨i, he⟩
  · simp [he, h0] at h1
  · by_cases hr : r = .cmd
    · subst hr
      exact ⟨hn, ho, he.trans (unlessBusy_of_idle _ h0)⟩
    · rw [he, State.busy, writeReg_pending hr v s, ← State.busy, h0] at h1
      cases h1
  · rw [he, unlessBusy_keeps State.busy rfl rfl, h0] at h1
    cases h1

/-- `DONE` is set by the end of a pending command (R204). -/
theorem done_set (hs : step s = .next t) (h0 : s.done = false) (h1 : t.done = true) :
    s.busy = true ∧ t.busy = false ∧ (s.agenda = [] ∨ ∃ rest, s.agenda = .engine :: rest) := by
  cases set_cases State.done (fun _ _ _ _ => rfl) (fun _ => rfl) hs h0 h1 with
  | command ht w hp i hd _ he => simp [State.busy, hp, (completed_of_exec he).idle, ht]
  | illegal ht w hp => simp [State.busy, hp, illegalCommand, ht]
  | write off n v => exact absurd ((poke_sets_no_done_cmdErr off n v s.turned).1 h1) (by simp [State.turned, h0])

/-- `CMDERR` is set by the execution of an illegal word (R199). -/
theorem cmdErr_set (hs : step s = .next t) (h0 : s.cmdErr = false) (h1 : t.cmdErr = true) :
    (s.agenda = [] ∨ ∃ rest, s.agenda = .engine :: rest) ∧ ∃ w c, s.pending = some w ∧ decode w = .error c := by
  cases set_cases State.cmdErr (fun _ _ _ _ => rfl) (fun _ => rfl) hs h0 h1 with
  | command _ _ _ _ _ _ he =>
    obtain ⟨hf, -, -⟩ := exec_sets_no_sticky he
    exact absurd (hf h1) (by simp [State.turned, h0])
  | illegal ht w hp c hd => exact ⟨ht, w, c, hp, hd⟩
  | write off n v => exact absurd ((poke_sets_no_done_cmdErr off n v s.turned).2 h1) (by simp [State.turned, h0])

/-- `OVR` is set by a dropped write (R200). -/
theorem ovr_set (hs : step s = .next t) (h0 : s.ovr = false) (h1 : t.ovr = true) :
    s.busy = true ∧ ∃ (off : Offset) (n : Width) (v : Word) (rest : List Turn),
      s.agenda = .write (s.cfg.base + off.toNat) n v :: rest ∧ off.toNat % n.bytes = 0 ∧
      ((n = .word ∧ off.toNat ∈ [0x008, 0x018, 0x01C, 0x020]) ∨ (0x4000 ≤ off.toNat ∧ off.toNat < 0x8000)) := by
  cases set_cases State.ovr (fun _ _ _ _ => rfl) (fun _ => rfl) hs h0 h1 with
  | command _ _ _ _ _ _ he =>
    obtain ⟨-, hf, -⟩ := exec_sets_no_sticky he
    exact absurd (hf h1) (by simp [State.turned, h0])
  | illegal => cases h0.symm.trans h1
  | write off n v rest ht ha =>
    obtain ⟨hb, ho⟩ := poke_sets_ovr (s := s.turned) ha h0 h1
    exact ⟨hb, off, n, v, rest, ht, (aligned_iff off n).1 ha, ho⟩

/-- `LENERR` is set by a `TEXT_LEN` write above the capacity (R201). -/
theorem lenErr_set (hs : step s = .next t) (h0 : s.lenErr = false) (h1 : t.lenErr = true) :
    s.busy = false ∧ ∃ v rest, s.agenda = .write (s.cfg.base + 0x020) .word v :: rest ∧ s.cfg.textCap < v.toNat := by
  cases set_cases State.lenErr (fun _ _ _ _ => rfl) (fun _ => rfl) hs h0 h1 with
  | command _ _ _ _ _ _ he =>
    obtain ⟨-, -, hf⟩ := exec_sets_no_sticky he
    exact absurd (hf h1) (by simp [State.turned, h0])
  | illegal => cases h0.symm.trans h1
  | write off n v rest ht ha =>
    obtain ⟨hb, rfl, ho, hv⟩ := poke_sets_lenErr (s := s.turned) ha h0 h1
    exact ⟨hb, v, rest, ho ▸ ht, hv⟩

/-- `BUSY` is set by acceptance, which clears `DONE` (R224). -/
theorem busy_set (hs : step s = .next t) (h0 : s.busy = false) (h1 : t.busy = true) :
    ∃ w rest, s.agenda = .write (s.cfg.base + 0x008) .word w :: rest ∧ t.pending = some w ∧ t.done = false := by
  cases set_cases State.busy (fun _ _ _ _ => rfl) (fun _ => rfl) hs h0 h1 with
  | command _ _ _ _ _ _ he => simp [State.busy, (completed_of_exec he).idle] at h1
  | illegal => simp [State.busy, illegalCommand] at h1
  | write off n v rest ht ha =>
    obtain ⟨rfl, ho, he⟩ := poke_sets_busy (s := s.turned) ha h0 h1
    exact ⟨v, rest, ho ▸ ht, by simp [he], by simp [he]⟩

/-- Settles O59: each flag by the transitions that can set it. -/
theorem flagsSetOnlyByTheirEvents : Obligations.FlagsSetOnlyByTheirEvents :=
  fun _ _ hs => ⟨done_set hs, cmdErr_set hs, ovr_set hs, lenErr_set hs, busy_set hs⟩

end Sys2Proof.Machine
end

section
/-! PROOFS. The memory family (20_memory.md): the offset space octet by octet, what an access in each region does, what a host access leaves alone while a command is pending, and that the outcome of `decode_armor` is a function of the parameters and the text. -/

namespace Sys2Proof.Machine

variable {s t u : State}

/-! ### Host turns (R60, R62) -/

theorem step_of_agenda {turn : Turn} {rest : List Turn} (h : s.agenda = turn :: rest) :
    step s = takeTurn turn { s with agenda := rest } := by
  simp [step, nextTurn, h]

theorem offsetOf_eq_none {c : Config} {addr : Nat} (h : addr < c.base ∨ c.base + 0x10000 ≤ addr) :
    offsetOf c addr = none := by
  simp only [offsetOf, ite_eq_right_iff, reduceCtorEq, imp_false]
  omega

/-- Settles O7: the turn is the first of the agenda, and its address names its offset or none. -/
theorem hostTurnsReachTheBus : Obligations.HostTurnsReachTheBus := by
  intro s rest off n v addr
  refine ⟨fun h => ?_, fun h => ?_, fun ha => ⟨fun h => ?_, fun h => ?_⟩⟩ <;> rw [step_of_agenda h]
  · simp [takeTurn, readTurn, offsetOf_base]
  · simp [takeTurn, writeTurn, offsetOf_base]
  · simp [takeTurn, readTurn, offsetOf_eq_none ha]
  · simp [takeTurn, writeTurn, offsetOf_eq_none ha]

/-! ### Aligned accesses -/

section
variable {off : Offset} {n : Width}

/-- An aligned read of a location that is not volatile, or with no command pending, is exact. -/
theorem hostRead_exact (ha : aligned off n = true) (hx : (s.busy && (regionOf off).volatile) = false) :
    hostRead off n s = respond (.data n (peek off n s)) s := by
  simp [hostRead, ha, hx]

theorem hostRead_idle (ha : aligned off n = true) (hb : s.busy = false) :
    hostRead off n s = respond (.data n (peek off n s)) s :=
  hostRead_exact ha (by simp [hb])

theorem hostWrite_aligned (ha : aligned off n = true) (v : Word) :
    hostWrite off n v s = respond .ok (poke off n v s) := by
  simp [hostWrite, ha]

theorem hostRead_misaligned (ha : aligned off n = false) : hostRead off n s = respond .busErr s := by
  simp [hostRead, ha]

theorem hostWrite_misaligned (ha : aligned off n = false) (v : Word) : hostWrite off n v s = respond .busErr s := by
  simp [hostWrite, ha]

end

/-! ### The register region and reserved space (R65, R66, R69) -/

/-- Below 0x38 every offset is one of a register's octets (R61). -/
theorem exists_regionOf_register {off : Offset} (h : off.toNat < 0x38) : ∃ r, regionOf off = .register r := by
  match hr : regionOf off with
  | .register r => exact ⟨r, rfl⟩
  | .reserved => have := (regionOf_reserved_iff off).1 hr; omega
  | .text i => have := (regionOf_text_iff off i).1 hr; omega
  | .payload i => have := (regionOf_payload_iff off i).1 hr; omega

/-- A word-aligned offset in a register's region is the register's own. -/
theorem toNat_eq_offset {off : Offset} {r : Reg} (ha : aligned off .word = true) (hr : regionOf off = .register r) :
    off.toNat = r.offset := by
  have h0 : off.toNat % 4 = 0 := (aligned_iff off .word).1 ha
  have h1 := ((regionOf_register_iff off r).1 hr).2
  have h4 : r.offset % 4 = 0 := by cases r <;> rfl
  omega

/-- The read-only registers ignore a write (R24, R28, R29, R33 to R37). -/
theorem writeReg_readOnly {r : Reg} (h : r.offset ∈ [0x000, 0x010, 0x014, 0x024, 0x028, 0x02C, 0x030, 0x034])
    (v : Word) (s : State) : writeReg r v s = s := by
  cases r with
  | ctrl | cmd | status | acc | claimed | textLen => simp [Reg.offset] at h
  | id | result | errInfo | payLen | segCount | seg0 | seg1 | caps => rfl

/-- Settles O46: below 0x38 the write's target is a register, which a sub-word write passes by. -/
theorem ignoredRegisterWrites : Obligations.IgnoredRegisterWrites := by
  intro s off n v hoff hal hign
  rw [← aligned_iff] at hal
  obtain ⟨r, hr⟩ := exists_regionOf_register hoff
  suffices poke off n v s = s by rw [hostWrite_aligned hal, this]; rfl
  simp only [poke, hr]
  split
  · rename_i hn
    subst hn
    have ho := toNat_eq_offset hal hr
    exact writeReg_readOnly (by simpa [ho] using hign) v s
  · rfl

/-- Settles O47: both ranges are the reserved region, where an aligned access has no effect. -/
theorem reservedSpaceReadsZero : Obligations.ReservedSpaceReadsZero := by
  intro s off n v hoff
  have hr : regionOf off = .reserved := (regionOf_reserved_iff off).2 hoff
  refine ⟨fun hal => ?_, fun hal => ?_⟩
  · rw [← aligned_iff] at hal
    rw [hostRead_exact hal (by simp [hr, Region.volatile]), hostWrite_aligned hal]
    simp [peek, poke, hr, respond]
  · rw [← aligned_eq_false_iff] at hal
    exact ⟨hostRead_misaligned hal, hostWrite_misaligned hal v⟩

/-! ### Octet lanes (R64) -/

/-- The value of some octets has no bit above them. -/
theorem ofLanes_toNat_lt (l : List Byte) : (ofLanes l).toNat < 2 ^ (8 * l.length) := by
  induction l with
  | nil => simp [ofLanes]
  | cons b l ih =>
    rw [ofLanes, List.length_cons, Nat.mul_succ, BitVec.toNat_or, BitVec.toNat_shiftLeft]
    refine Nat.or_lt_two_pow ?_ ((Nat.mod_le _ _).trans_lt ?_)
    · refine lt_of_lt_of_le ?_ (Nat.pow_le_pow_right (by decide) (Nat.le_add_left 8 _))
      rw [BitVec.toNat_setWidth]
      exact (Nat.mod_le _ _).trans_lt b.isLt
    · rw [Nat.shiftLeft_eq, Nat.pow_add]
      exact Nat.mul_lt_mul_of_pos_right ih (by decide)

theorem Width.bytes_le (n : Width) : n.bytes ≤ 4 := by cases n <;> decide

/-- The octets of the value an `n`-byte read puts together, and that it has no others. -/
theorem ofLanes_range (n : Width) (f : Nat → Byte) :
    (∀ k < n.bytes, (ofLanes ((List.range n.bytes).map f)).extractLsb' (8 * k) 8 = f k) ∧
      (ofLanes ((List.range n.bytes).map f)).toNat < 2 ^ (8 * n.bytes) := by
  constructor
  · intro k hk
    rw [extractLsb'_ofLanes _ k (hk.trans_le n.bytes_le)]
    simp [hk]
  · simpa using ofLanes_toNat_lt ((List.range n.bytes).map f)

/-- Narrowing keeps the low `8n` bits (R62). -/
theorem narrow_getLsbD (n : Width) (v : Word) (i : Nat) :
    (n.narrow v).getLsbD i = (decide (i < 8 * n.bytes) && v.getLsbD i) := by
  cases n with
  | byte | half | word => simp only [Width.narrow, Width.bytes]; grind

/-- Some octets of a value, cut out of it, are those octets put together. -/
theorem narrow_eq_ofLanes (n : Width) (v : Word) (j : Nat) :
    n.narrow (v >>> (8 * j)) = ofLanes ((List.range n.bytes).map (fun k => lane v (j + k))) := by
  apply BitVec.eq_of_getLsbD_eq
  intro i hi
  rw [narrow_getLsbD, ofLanes_getLsbD _ _ hi, BitVec.getLsbD_ushiftRight]
  by_cases hn : i < 8 * n.bytes
  · have hk : i / 8 < n.bytes := by omega
    simp [hn, hk, lane, Nat.mod_lt, show 8 * (j + i / 8) + i % 8 = 8 * j + i by omega]
  · have hk : n.bytes ≤ i / 8 := by omega
    simp [hn, hk]

/-! ### The offset space, octet by octet -/

/-- The octet an exact read shows at an offset (R64 to R69). -/
def octetAt (s : State) (off : Offset) : Byte :=
  match regionOf off with
  | .register r => lane (readReg r s) (off.toNat % 4)
  | .reserved => 0
  | .text i => textWindow s i
  | .payload i => payWindow s i

/-- The offsets of an aligned access lie in one word of the offset space. -/
theorem toNat_add_lane {off : Offset} {n : Width} (ha : aligned off n = true) {k : Nat} (hk : k < n.bytes) :
    (off + BitVec.ofNat 16 k).toNat = off.toNat + k ∧ off.toNat % 4 + k < 4 := by
  have ha := (aligned_iff off n).1 ha
  have hlt := off.isLt
  rw [BitVec.toNat_add, BitVec.toNat_ofNat]
  cases n <;> simp only [Width.bytes] at ha hk <;> omega

/-- The region `k` octets further on, where no boundary is crossed. -/
def Region.shift (k : Nat) : Region → Region
  | .register r => .register r
  | .reserved => .reserved
  | .text i => .text (i + k)
  | .payload i => .payload (i + k)

/-- An aligned access stays in the region it begins in (R61). -/
theorem regionOf_add_lane {off : Offset} {n : Width} (ha : aligned off n = true) {k : Nat} (hk : k < n.bytes) :
    regionOf (off + BitVec.ofNat 16 k) = (regionOf off).shift k := by
  obtain ⟨hadd, hword⟩ := toNat_add_lane ha hk
  match hr : regionOf off with
  | .register r =>
    have := (regionOf_register_iff off r).1 hr
    exact (regionOf_register_iff _ r).2 (by omega)
  | .reserved =>
    have := (regionOf_reserved_iff off).1 hr
    exact (regionOf_reserved_iff _).2 (by omega)
  | .text i =>
    have := (regionOf_text_iff off i).1 hr
    exact (regionOf_text_iff _ _).2 (by omega)
  | .payload i =>
    have := (regionOf_payload_iff off i).1 hr
    exact (regionOf_payload_iff _ _).2 (by omega)

/-- An exact read puts the octets at its offsets together, lowest offset first (R64). -/
theorem peek_eq_ofLanes {off : Offset} {n : Width} (ha : aligned off n = true) (s : State) :
    peek off n s = ofLanes ((List.range n.bytes).map (fun k => octetAt s (off + BitVec.ofNat 16 k))) := by
  have octets {f : Nat → Byte} (hf : ∀ k < n.bytes, f k = octetAt s (off + BitVec.ofNat 16 k)) :
      ofLanes ((List.range n.bytes).map f) =
        ofLanes ((List.range n.bytes).map (fun k => octetAt s (off + BitVec.ofNat 16 k))) :=
    congrArg ofLanes (List.map_congr_left fun k hk => hf k (List.mem_range.1 hk))
  unfold peek
  split
  case h_1 r hr =>
    rw [narrow_eq_ofLanes]
    refine octets fun k hk => ?_
    obtain ⟨hadd, hword⟩ := toNat_add_lane ha hk
    have hmod : (off.toNat + k) % 4 = off.toNat % 4 + k := by omega
    simp only [octetAt, regionOf_add_lane ha hk, hr, Region.shift, hadd, hmod]
  case h_2 hr =>
    have hzero : (0 : Word) = ofLanes ((List.range n.bytes).map (fun _ => 0)) := by cases n <;> rfl
    exact hzero.trans (octets fun k hk => by simp only [octetAt, regionOf_add_lane ha hk, hr, Region.shift])
  case h_3 i hr => exact octets fun k hk => by simp only [octetAt, regionOf_add_lane ha hk, hr, Region.shift]
  case h_4 i hr => exact octets fun k hk => by simp only [octetAt, regionOf_add_lane ha hk, hr, Region.shift]

/-- With no command pending an aligned read answers the octets at its offsets. -/
theorem hostRead_octets {off : Offset} {n : Width} (ha : aligned off n = true) (hb : s.busy = false) :
    hostRead off n s =
      respond (.data n (ofLanes ((List.range n.bytes).map (fun k => octetAt s (off + BitVec.ofNat 16 k))))) s := by
  rw [hostRead_idle ha hb, peek_eq_ofLanes ha]

theorem ofLanes_one (b0 : Byte) : ofLanes [b0] = b0.setWidth 32 := by simp [ofLanes]

theorem ofLanes_two (b0 b1 : Byte) : ofLanes [b0, b1] = (b1 ++ b0).setWidth 32 := by
  ext i hi
  simp only [ofLanes]
  grind

theorem ofLanes_four (b0 b1 b2 b3 : Byte) : ofLanes [b0, b1, b2, b3] = b3 ++ b2 ++ b1 ++ b0 := by
  ext i hi
  simp only [ofLanes]
  grind

theorem hostRead_byte (hb : s.busy = false) (off : Offset) :
    hostRead off .byte s = respond (.data .byte ((octetAt s off).setWidth 32)) s := by
  rw [hostRead_octets ((aligned_iff off .byte).2 (Nat.mod_one _)) hb]
  simp [Width.bytes, ofLanes_one]

theorem hostRead_half (hb : s.busy = false) {off : Offset} (ha : aligned off .half = true) :
    hostRead off .half s = respond (.data .half ((octetAt s (off + 1) ++ octetAt s off).setWidth 32)) s := by
  rw [hostRead_octets ha hb]
  simp [Width.bytes, List.range_succ, ofLanes_two]

theorem hostRead_word (hb : s.busy = false) {off : Offset} (ha : aligned off .word = true) :
    hostRead off .word s =
      respond (.data .word (octetAt s (off + 3) ++ octetAt s (off + 2) ++ octetAt s (off + 1) ++ octetAt s off)) s := by
  rw [hostRead_octets ha hb]
  simp [Width.bytes, List.range_succ, ofLanes_four]

/-! ### The TEXT and PAYLOAD windows (R67, R68) -/

/-- An index aligned within a window that starts at a word is so within the offset space. -/
theorem aligned_window {base i : Nat} {n : Width} (hbase : base % 4 = 0) (hlt : base + i < 0x10000)
    (hi : i % n.bytes = 0) : aligned (BitVec.ofNat 16 (base + i)) n = true := by
  rw [aligned_iff, BitVec.toNat_ofNat, Nat.mod_eq_of_lt hlt]
  cases n <;> simp only [Width.bytes] at hi ⊢ <;> omega

theorem regionOf_textWindow {i : Nat} (hi : i < 0x4000) : regionOf (BitVec.ofNat 16 (0x4000 + i)) = .text i :=
  (regionOf_text_iff _ i).2 ⟨by simp; omega, hi⟩

theorem regionOf_payWindow {i : Nat} (hi : i < 0x4000) : regionOf (BitVec.ofNat 16 (0x8000 + i)) = .payload i :=
  (regionOf_payload_iff _ i).2 ⟨by simp; omega, hi⟩

theorem textOctet_eq_getD (s : State) (i : Nat) :
    textOctet s i = (s.text.lookup i).getD (Config.unwrittenText s.textEra i) := by
  unfold textOctet
  cases s.text.lookup i <;> rfl

/-- A TEXT write stores its octets at the indices below the capacity (R67). -/
theorem textOctet_writeText (s : State) (i : Nat) (n : Width) (v : Word) (j : Nat) :
    textOctet (writeText i n v s) j =
      if (i ≤ j ∧ j < i + n.bytes) ∧ j < s.cfg.textCap then v.extractLsb' (8 * (j - i)) 8 else textOctet s j := by
  have hlen : (lanes n v).length = n.bytes := by simp [lanes]
  simp only [textOctet_eq_getD, writeText_text, writeText_textEra, Memory.lookup_writeBelow, hlen]
  split
  · rw [lanes_getElem? n v (j - i) (by omega), Option.getD_some]
  · rfl

section
variable {i : Nat} {n : Width} (hi : i < 0x4000) (hal : i % n.bytes = 0)
include hi hal

theorem hostWrite_text (v : Word) (s : State) :
    hostWrite (BitVec.ofNat 16 (0x4000 + i)) n v s = respond .ok (unlessBusy (writeText i n v) s) := by
  rw [hostWrite_aligned (aligned_window (by decide) (by omega) hal), poke, regionOf_textWindow hi]

theorem hostWrite_text_idle (v : Word) (hb : s.busy = false) :
    hostWrite (BitVec.ofNat 16 (0x4000 + i)) n v s = respond .ok (writeText i n v s) := by
  rw [hostWrite_text hi hal, unlessBusy_of_idle _ hb]

/-- A TEXT read is exact, busy or not (R67, R226). -/
theorem hostRead_text (s : State) :
    hostRead (BitVec.ofNat 16 (0x4000 + i)) n s =
      respond (.data n (ofLanes ((List.range n.bytes).map (fun k => textWindow s (i + k))))) s := by
  have hr := regionOf_textWindow hi
  rw [hostRead_exact (aligned_window (by decide) (by omega) hal) (by simp [hr, Region.volatile]), peek, hr]

theorem hostWrite_payload (v : Word) (s : State) :
    hostWrite (BitVec.ofNat 16 (0x8000 + i)) n v s = respond .ok s := by
  rw [hostWrite_aligned (aligned_window (by decide) (by omega) hal), poke, regionOf_payWindow hi]

theorem hostRead_payload_idle (hb : s.busy = false) :
    hostRead (BitVec.ofNat 16 (0x8000 + i)) n s =
      respond (.data n (ofLanes ((List.range n.bytes).map (fun k => payWindow s (i + k))))) s := by
  rw [hostRead_idle (aligned_window (by decide) (by omega) hal) hb, peek, regionOf_payWindow hi]

theorem hostRead_payload_busy (hb : s.busy = true) :
    hostRead (BitVec.ofNat 16 (0x8000 + i)) n s = volatileRead n s := by
  simp [hostRead, aligned_window (base := 0x8000) (by decide) (by omega) hal, hb, regionOf_payWindow hi,
    Region.volatile]

end

/-- Settles O48: the write is `writeText` or its drop, and the read is exact at all times. -/
theorem textWindowAccess : Obligations.TextWindowAccess := by
  intro s i n v hi hal
  refine ⟨fun hb => ?_, fun hb => ?_, _, hostRead_text hi hal s, ofLanes_range n _⟩
  · rw [hostWrite_text_idle hi hal v hb]
    exact ⟨textOctet_writeText s i n v, _, rfl⟩
  · rw [hostWrite_text hi hal, unlessBusy, if_pos hb]
    rfl

/-- Settles O49: the window ignores writes, and its reads are exact while no command is pending. -/
theorem payloadWindowAccess : Obligations.PayloadWindowAccess := by
  intro s i n v hi hal
  exact ⟨hostWrite_payload hi hal v s,
    fun hb => ⟨_, hostRead_payload_idle hi hal hb, ofLanes_range n _⟩,
    fun hb => ⟨_, hostRead_payload_busy hi hal hb⟩⟩

/-- Settles O45: reads put octets together, the registers are `registers_eq`, and TEXT stores the written octets. -/
theorem lanesAreLittleEndian : Obligations.LanesAreLittleEndian := by
  refine ⟨fun s off hb hoff => ?_, fun s hb p hp n k hk hn => ?_, fun s i k n v hb hi hal hk hcap => ?_⟩
  · have hhalf : aligned off .half = true := (aligned_iff off .half).2 (by simp only [Width.bytes]; omega)
    have hhalf2 : aligned (off + 2) .half = true := (aligned_iff _ .half).2 (by simp [Width.bytes]; omega)
    refine ⟨_, _, _, _, hostRead_byte hb off, hostRead_byte hb (off + 1), hostRead_byte hb (off + 2),
      hostRead_byte hb (off + 3), hostRead_half hb hhalf, ?_, hostRead_word hb ((aligned_iff off .word).2 hoff)⟩
    rw [hostRead_half hb hhalf2, BitVec.add_assoc]
    rfl
  · rw [registers_eq, List.mem_map] at hp
    obtain ⟨r, -, rfl⟩ := hp
    exact hostRead_register_lane s r n k (by simp [hb]) hk hn
  · rw [hostWrite_text_idle hi hal v hb]
    exact (textOctet_writeText s i n v (i + k)).trans (by simp [hk, hcap])

/-! ### Host accesses while a command is pending (R72, R225) -/

/-- While a command is pending a write reaches `IE` and the flags of `STATUS` alone (R200, R225). -/
theorem poke_eq_flags_of_busy (off : Offset) (n : Width) (v : Word) (hb : s.busy = true) :
    ∃ e d c o l, poke off n v s = { s with ie := e, done := d, cmdErr := c, ovr := o, lenErr := l } := by
  have hc := poke_cases off n v s
  generalize poke off n v s = u at hc
  cases hc with
  | ignored | ctrl | status | dropped => exact ⟨_, _, _, _, _, rfl⟩
  | accepted _ hi | acc _ hi | claimed _ hi | tooLong _ hi | textLen _ hi | text _ _ _ hi => simp [hb] at hi

/-- A host turn while a command is pending changes `IE`, the flags and the model's record of the world outside alone. -/
theorem step_eq_flags_of_busy {turn : Turn} {rest : List Turn} (hb : s.busy = true) (hag : s.agenda = turn :: rest)
    (he : turn ≠ .engine) (hr : turn ≠ .reset) (hs : step s = .next t) :
    ∃ e d c o l ag rs dr, t =
      { s with
        ie := e, done := d, cmdErr := c, ovr := o, lenErr := l, agenda := ag, responses := rs, draws := dr } := by
  have not_engine : ¬(s.agenda = [] ∨ ∃ rest, s.agenda = .engine :: rest) := by simp [hag, he]
  cases next_cases hs with
  | idle ht | command ht | illegal ht => exact absurd ht not_engine
  | reset _ ht => simp [hag, hr] at ht
  | read off n =>
    obtain ⟨rs, dr, h⟩ := hostRead_eq_record off n s.turned
    exact ⟨_, _, _, _, _, _, rs, dr, h⟩
  | write off n v =>
    rcases hostWrite_cases off n v s.turned with ⟨-, h⟩ | ⟨-, h⟩
    · exact ⟨_, _, _, _, _, _, _, _, h⟩
    · obtain ⟨e, d, c, o, l, hp⟩ := poke_eq_flags_of_busy (s := s.turned) off n v hb
      exact ⟨e, d, c, o, l, _, _, _, h.trans (by rw [hp]; rfl)⟩

/-- Settles O60: what a host turn reaches is no input of the pending command. -/
theorem busyProtectsInputs : Obligations.BusyProtectsInputs := by
  intro s t turn rest hb hag he hr hs
  obtain ⟨_, _, _, _, _, _, _, _, rfl⟩ := step_eq_flags_of_busy hb hag he hr hs
  exact ⟨rfl, rfl, rfl, rfl, rfl, rfl, rfl, rfl, rfl⟩

/-! ### `decode_armor` as a function of the parameters and the text (R72, R172) -/

/-- The case that applies says what the procedure does. -/
theorem decodeArmor_eq_of_case {r : Except State State} (h : ArmorCase s r) : decodeArmor s = r := by
  cases h with
  | structural segs hs hn => subst hs; exact decodeArmor_structural hn
  | data g0 g1 hs e hd => simp only [decodeArmor, hs, hd]
  | checksum g0 g1 hs d e hd hc => simp only [decodeArmor, hs, hd, hc]
  | decoded g0 g1 hs d c0 c1 c2 hd hc => simp only [decodeArmor, hs, hd, hc]
  | format g0 g1 hs d c hd hc hn =>
    simp only [decodeArmor, hs, hd, hc]
    split
    case h_1 he => cases he
    case h_2 he => cases he; exact absurd rfl hn
    case h_3 he => cases he; rfl

/-- What the procedure does to any state with the parameters and the text of `s`: the same failure, which is neither an
`OK` nor a mismatch, or the same payload and claim. -/
theorem decodeArmor_of_text (s : State) :
    (∃ segs k g d info, k ≠ .ok ∧ k ≠ .checksumMismatch ∧
      ∀ t : State, t.cfg = s.cfg → textOperand t = textOperand s →
        decodeArmor t = .error (raiseOutcome k g d info (recordSplit segs t))) ∨
    (∃ segs d claim, d.length < 2 ^ 32 ∧
      ∀ t : State, t.cfg = s.cfg → textOperand t = textOperand s →
        decodeArmor t = .ok (storeDecoded d claim (recordSplit segs t))) := by
  have hc := decodeArmor_cases s
  generalize decodeArmor s = r at hc
  cases hc with
  | structural segs hs hn =>
    exact .inl ⟨segs, .structural, _, _, _, by decide, by decide, fun t _ ht =>
      decodeArmor_eq_of_case (.structural segs (ht ▸ hs) hn)⟩
  | data g0 g1 hs e hd =>
    exact .inl ⟨_, .decoding, _, _, _, by decide, by decide, fun t hcfg ht =>
      decodeArmor_eq_of_case (.data g0 g1 (ht ▸ hs) e (hcfg ▸ ht ▸ hd))⟩
  | checksum g0 g1 hs d e hd hc =>
    exact .inl ⟨_, .decoding, _, _, _, by decide, by decide, fun t hcfg ht =>
      decodeArmor_eq_of_case (.checksum g0 g1 (ht ▸ hs) d e (hcfg ▸ ht ▸ hd) (hcfg ▸ ht ▸ hc))⟩
  | format g0 g1 hs d c hd hc hn =>
    exact .inl ⟨_, .checksumFormat, _, _, _, by decide, by decide, fun t hcfg ht =>
      decodeArmor_eq_of_case (.format g0 g1 (ht ▸ hs) d c (hcfg ▸ ht ▸ hd) (hcfg ▸ ht ▸ hc) hn)⟩
  | decoded g0 g1 hs d c0 c1 c2 hd hc =>
    have hlen : d.length < 2 ^ 32 := by
      have h1 := length_le_of_b64Decode hd
      have h2 := le_textLen_of_mem_split (s := s) (g := g0) (by simp [hs])
      have h3 := s.textLen.isLt
      omega
    exact .inr ⟨_, d, _, hlen, fun t hcfg ht =>
      decodeArmor_eq_of_case (.decoded g0 g1 (ht ▸ hs) d c0 c1 c2 (hcfg ▸ ht ▸ hd) (hcfg ▸ ht ▸ hc))⟩

@[simp] theorem payOperand_complete (s : State) : payOperand (complete s) = payOperand s := rfl
@[simp] theorem payOperand_finishOk (s : State) : payOperand (finishOk s) = payOperand s := rfl
@[simp] theorem payOperand_setAcc (v : Word) (s : State) : payOperand (setAcc v s) = payOperand s := rfl
@[simp] theorem payOperand_raiseOutcome (k : Kind) (g : Bool) (d : Detail) (i : Word) (s : State) :
    payOperand (raiseOutcome k g d i s) = [] := rfl

/-- What `decode_armor` stores is the visible payload (R118). -/
theorem payOperand_storeDecoded {d : List Byte} (hd : d.length < 2 ^ 32) (claim : Word24) (s : State) :
    payOperand (storeDecoded d claim s) = d := by
  have hlen : (storeDecoded d claim s).payLen.toNat = d.length := by
    simpa using Nat.mod_eq_of_lt hd
  exact (payload_of_writeBytes (s := s) rfl hlen rfl).1

/-- The CRC half of `VALIDATE` over a decoded payload (R170). -/
theorem compareClaim_checksum_storeDecoded {d : List Byte} (hd : d.length < 2 ^ 32) (claim : Word24) (s : State) :
    compareClaim (checksumPayload (storeDecoded d claim s)) =
      if (crc24 d).setWidth 24 = claim then finishOk (setAcc (crc24 d) (storeDecoded d claim s))
      else raiseMismatch (setAcc (crc24 d) (storeDecoded d claim s)) := by
  have h : checksumPayload (storeDecoded d claim s) = setAcc (crc24 d) (storeDecoded d claim s) := by
    rw [checksumPayload, payOperand_storeDecoded hd, crc24]
  rw [h, compareClaim_eq]
  rfl

/-- A failure of `decode_armor` ends either command (R120, R170). -/
theorem exec_of_decodeArmor_error {i : Instr} (hi : i = .armDecode ∨ i = .armValidate)
    (h : decodeArmor s = .error u) : exec i s = .next (complete u) := by
  rcases hi with rfl | rfl
  · rw [exec_armDecode, h]
  · rw [exec_armValidate, h]

theorem exec_armDecode_of_ok (h : decodeArmor s = .ok u) : exec .armDecode s = .next (complete (finishOk u)) := by
  rw [exec_armDecode, h]

theorem exec_armValidate_of_ok (h : decodeArmor s = .ok u) :
    exec .armValidate s = .next (complete (compareClaim (checksumPayload u))) := by
  rw [exec_armValidate, h]

/-- Settles O39: both states go the same way through `decode_armor`, and every register compared is written on it. -/
theorem decodeDependsOnTextAlone : Obligations.DecodeDependsOnTextAlone := by
  intro s1 s2 i hi hcfg hlen htext
  have htxt : textOperand s2 = textOperand s1 := by
    unfold textOperand
    rw [← hlen]
    exact List.map_congr_left fun k hk => (htext k (List.mem_range.1 hk)).symm
  rcases decodeArmor_of_text s1 with ⟨segs, k, g, d, info, hok, hmis, hdec⟩ | ⟨segs, d, claim, hd, hdec⟩
  · refine ⟨_, _, exec_of_decodeArmor_error hi (hdec s1 rfl rfl),
      exec_of_decodeArmor_error hi (hdec s2 hcfg.symm htxt), ?_⟩
    simp [hok, hmis]
  · have hpay (s : State) := payOperand_storeDecoded hd claim (recordSplit segs s)
    rcases hi with rfl | rfl
    · refine ⟨_, _, exec_armDecode_of_ok (hdec s1 rfl rfl), exec_armDecode_of_ok (hdec s2 hcfg.symm htxt), ?_⟩
      simp [hpay]
    · refine ⟨_, _, exec_armValidate_of_ok (hdec s1 rfl rfl), exec_armValidate_of_ok (hdec s2 hcfg.symm htxt), ?_⟩
      simp only [compareClaim_checksum_storeDecoded hd]
      split
      · simp [hpay]
      · simp [raiseMismatch]

end Sys2Proof.Machine
end

section
/-! PROOFS. The encoding family (30_encoding.md): a word is its three fields (R91), what the decoder answers for each kind of opcode (R94, R95), and the two sides of the round trip as one statement about fields. -/

namespace Sys2Proof

variable {v w : Word} {i : Instr} {opc : Byte}

/-! ### The fields of a word (R91) -/

theorem opcField_toNat (w : Word) : (opcField w).toNat = w.toNat % 2 ^ 8 := by
  simp [opcField, BitVec.extractLsb'_toNat]

theorem imm8Field_toNat (w : Word) : (imm8Field w).toNat = w.toNat / 2 ^ 8 % 2 ^ 8 := by
  simp [imm8Field, BitVec.extractLsb'_toNat, Nat.shiftRight_eq_div_pow]

theorem rsvField_toNat (w : Word) : (rsvField w).toNat = w.toNat / 2 ^ 16 := by
  simp only [rsvField, BitVec.extractLsb'_toNat, Nat.shiftRight_eq_div_pow]
  omega

theorem operandBits_toNat (w : Word) : (w.extractLsb' 8 24).toNat = w.toNat / 2 ^ 8 := by
  simp only [BitVec.extractLsb'_toNat, Nat.shiftRight_eq_div_pow]
  omega

theorem word_eq_iff_fields :
    v = w ↔ opcField v = opcField w ∧ imm8Field v = imm8Field w ∧ rsvField v = rsvField w := by
  simp only [← BitVec.toNat_inj, opcField_toNat, imm8Field_toNat, rsvField_toNat]
  omega

/-- `w[31:8]` is made of `IMM8` and `RSV`. -/
theorem operandBits_eq_zero_iff : w.extractLsb' 8 24 = 0 ↔ imm8Field w = 0 ∧ rsvField w = 0 := by
  simp only [← BitVec.toNat_inj, operandBits_toNat, imm8Field_toNat, rsvField_toNat, BitVec.ofNat_eq_ofNat,
    BitVec.toNat_ofNat]
  omega

/-! ### The fields of a command's word (R91, R97) -/

theorem encode_toNat (i : Instr) : (encode i).toNat = 2 ^ 8 * i.imm8.toNat + i.opcode.toNat := by
  have hopc := i.opcode.isLt
  have himm := i.imm8.isLt
  rw [encode, BitVec.or_comm, BitVec.toNat_or, BitVec.toNat_shiftLeft, BitVec.toNat_setWidth, BitVec.toNat_setWidth,
    Nat.shiftLeft_eq, Nat.two_pow_add_eq_or_of_lt hopc]
  congr 1 <;> omega

@[simp] theorem opcField_encode (i : Instr) : opcField (encode i) = i.opcode := by
  apply BitVec.eq_of_toNat_eq
  rw [opcField_toNat, encode_toNat]
  omega

@[simp] theorem imm8Field_encode (i : Instr) : imm8Field (encode i) = i.imm8 := by
  apply BitVec.eq_of_toNat_eq
  rw [imm8Field_toNat, encode_toNat]
  omega

@[simp] theorem rsvField_encode (i : Instr) : rsvField (encode i) = 0 := by
  apply BitVec.eq_of_toNat_eq
  simp only [rsvField_toNat, encode_toNat, BitVec.ofNat_eq_ofNat, BitVec.toNat_ofNat]
  omega

theorem encode_eq_iff_fields :
    encode i = w ↔ opcField w = i.opcode ∧ imm8Field w = i.imm8 ∧ rsvField w = 0 := by
  rw [eq_comm, word_eq_iff_fields, opcField_encode, imm8Field_encode, rsvField_encode]

/-! ### The opcodes (R93) -/

/-- A row found by its opcode has that opcode and no operand. -/
theorem fields_of_plainCommand (h : plainCommand opc = some i) : opc = i.opcode ∧ i.imm8 = 0 := by
  unfold plainCommand at h
  rw [← BitVec.toNat_inj]
  split at h <;> cases h <;> exact ⟨‹_›, rfl⟩

/-- Every command but `CRC_BYTE` is found by its opcode. -/
theorem crcByte_or_plainCommand_opcode (i : Instr) :
    (∃ b, i = .crcByte b) ∨ (i.imm8 = 0 ∧ plainCommand i.opcode = some i) := by
  cases i
  case crcByte b => exact .inl ⟨b, rfl⟩
  all_goals exact .inr ⟨rfl, rfl⟩

theorem plainCommand_eq_none_iff (opc : Byte) :
    plainCommand opc = none ↔ opc = 0x02#8 ∨ 0x0A ≤ opc.toNat := by
  revert opc
  decide

/-- The three kinds of opcode the decoder tells apart. -/
theorem opcode_cases (opc : Byte) :
    opc = 0x02#8 ∨ (∃ i, plainCommand opc = some i) ∨ 0x0A ≤ opc.toNat := by
  rcases hp : plainCommand opc with _ | i
  · exact ((plainCommand_eq_none_iff opc).1 hp).imp_right .inr
  · exact .inr (.inl ⟨i, rfl⟩)

/-! ### What the decoder answers (R94, R95) -/

theorem decode_crcByteWord (h : opcField w = 0x02#8) :
    decode w = if rsvField w = 0 then .ok (.crcByte (imm8Field w)) else .error .crcByteReserved := by
  rw [decode, if_pos h]

theorem decode_plainWord (h : plainCommand (opcField w) = some i) :
    decode w = if w.extractLsb' 8 24 = 0 then .ok i else .error .operandBitsSet := by
  have hopc : opcField w ≠ 0x02#8 := fun h2 => by simp [h2, plainCommand] at h
  simp only [decode, if_neg hopc, h]

theorem decode_undefinedWord (h : 0x0A ≤ (opcField w).toNat) : decode w = .error .undefinedOpcode := by
  have hopc : opcField w ≠ 0x02#8 := fun h2 => by simp [h2] at h
  simp only [decode, if_neg hopc, (plainCommand_eq_none_iff _).2 (.inr h)]

theorem fields_of_decode (h : decode w = .ok i) :
    opcField w = i.opcode ∧ imm8Field w = i.imm8 ∧ rsvField w = 0 := by
  rcases opcode_cases (opcField w) with hopc | ⟨j, hj⟩ | hopc
  · rw [decode_crcByteWord hopc] at h
    split at h <;> cases h
    exact ⟨hopc, rfl, ‹_›⟩
  · rw [decode_plainWord hj] at h
    split at h <;> cases h
    obtain ⟨hopc, himm⟩ := fields_of_plainCommand hj
    exact ⟨hopc, himm ▸ operandBits_eq_zero_iff.1 ‹_›⟩
  · rw [decode_undefinedWord hopc] at h
    cases h

theorem decode_of_fields (hopc : opcField w = i.opcode) (himm : imm8Field w = i.imm8) (hrsv : rsvField w = 0) :
    decode w = .ok i := by
  rcases crcByte_or_plainCommand_opcode i with ⟨b, rfl⟩ | ⟨hzero, hplain⟩
  · rw [decode_crcByteWord hopc, if_pos hrsv, himm, Instr.imm8]
  · rw [decode_plainWord (hopc ▸ hplain), if_pos (operandBits_eq_zero_iff.2 ⟨himm.trans hzero, hrsv⟩)]

/-- Settles O1: both sides say that the fields of the word are those of the command. -/
theorem decodeIffEncoded : Obligations.DecodeIffEncoded := by
  intro w i
  rw [encode_eq_iff_fields]
  exact ⟨fields_of_decode, fun ⟨hopc, himm, hrsv⟩ => decode_of_fields hopc himm hrsv⟩

/-! ### Illegal words (R95, R199) -/

theorem exists_error_ite {p : Prop} [Decidable p] {k : IllegalWord} :
    (∃ c, (if p then Except.ok i else Except.error k) = Except.error c) ↔ ¬p := by
  split <;> simp [*]

theorem decode_eq_error_iff :
    (∃ c, decode w = .error c) ↔
      0x0A ≤ (opcField w).toNat ∨ (opcField w = 0x02#8 ∧ rsvField w ≠ 0) ∨
      (opcField w ≠ 0x02#8 ∧ (opcField w).toNat ≤ 0x09 ∧ w.extractLsb' 8 24 ≠ 0) := by
  rcases opcode_cases (opcField w) with hopc | ⟨i, hi⟩ | hopc
  · rw [decode_crcByteWord hopc, exists_error_ite]
    simp [hopc]
  · have hdefined : ¬(opcField w = 0x02#8 ∨ 0x0A ≤ (opcField w).toNat) := by
      simp [← plainCommand_eq_none_iff, hi]
    obtain ⟨hne, hlt⟩ := not_or.1 hdefined
    have hle : (opcField w).toNat ≤ 0x09 := by omega
    rw [decode_plainWord hi, exists_error_ite]
    simp [hne, hlt, hle]
  · simp [decode_undefinedWord hopc, hopc]

/-- An illegal word runs as the illegal-command outcome, whatever its class. -/
theorem engineRun_of_illegal {c : IllegalWord} (h : decode w = .error c) (s : Machine.State) :
    Machine.engineRun w s = .next (Machine.illegalCommand s) := by
  rw [Machine.engineRun, h]

/-- Settles O3: the classes by the kind of opcode, and what the illegal-command outcome writes. -/
theorem illegalWordsSetCmderr : Obligations.IllegalWordsSetCmderr := by
  intro w s
  exact ⟨decode_eq_error_iff, fun ⟨_, h⟩ => engineRun_of_illegal h s⟩

end Sys2Proof
end

section
/-! PROOFS. The armor family (40_armor.md): the splitter piece by piece, the decoder as a statement about a segment's own octets, and the encoder as the values that pass the checks. -/

namespace Sys2Proof.Machine

variable {a b seg out rest t : List Byte} {g : Seg} {c : Config} {octets : List (Byte × Nat)}

/-! ### The splitter, piece by piece (R110) -/

/-- The octets of a segment: `t[s .. s+L)`. -/
def segOctets (t : List Byte) (g : Seg) : List Byte := (t.drop g.start).take g.len

/-- The same segment behind `n` more octets of text. -/
def Seg.shift (n : Nat) (g : Seg) : Seg := ⟨g.start + n, g.len⟩

@[simp] theorem Seg.shift_start (n : Nat) (g : Seg) : (g.shift n).start = g.start + n := rfl
@[simp] theorem Seg.shift_len (n : Nat) (g : Seg) : (g.shift n).len = g.len := rfl

theorem splitFrom_shift (n : Nat) (t : List Byte) (i : Nat) (o : Option Nat) :
    splitFrom (i + n) (o.map (· + n)) t = (splitFrom i o t).map (Seg.shift n) := by
  induction t generalizing i o with
  | nil =>
    cases o with
    | none => rfl
    | some st => simp [splitFrom, Seg.shift, Nat.add_sub_add_right]
  | cons x t ih =>
    have next (o' : Option Nat) :
        splitFrom (i + n + 1) (o'.map (· + n)) t = (splitFrom (i + 1) o' t).map (Seg.shift n) := by
      rw [Nat.add_right_comm, ih]
    cases o with
    | none =>
      simp only [Option.map_none, splitFrom]
      split
      · exact next none
      · exact next (some i)
    | some st =>
      simp only [Option.map_some, splitFrom]
      split
      · simp [Seg.shift, ← next none, Nat.add_sub_add_right]
      · exact next (some st)

theorem splitFrom_none (i : Nat) (t : List Byte) : splitFrom i none t = (split t).map (Seg.shift i) := by
  simpa [split] using splitFrom_shift i t 0 none

/-- The segment of a piece between delimiters, none where the piece is empty. -/
def pieceSegs (a : List Byte) : List Seg := if a = [] then [] else [⟨0, a.length⟩]

theorem pieceSegs_of_ne_nil (hne : a ≠ []) : pieceSegs a = [⟨0, a.length⟩] := if_neg hne

theorem mem_pieceSegs : g ∈ pieceSegs a ↔ a ≠ [] ∧ g = ⟨0, a.length⟩ := by
  unfold pieceSegs
  split <;> simp [*]

theorem split_piece (ha : delimiter ∉ a) : split a = pieceSegs a := by
  by_cases hne : a = []
  · subst hne
    rfl
  · simpa [split, pieceSegs_of_ne_nil hne, splitFrom] using splitFrom_start a [] ha hne 0

theorem split_piece_cons (ha : delimiter ∉ a) (rest : List Byte) :
    split (a ++ delimiter :: rest) = pieceSegs a ++ (split rest).map (Seg.shift (a.length + 1)) := by
  rw [← splitFrom_none]
  by_cases hne : a = []
  · subst hne
    simp [split, splitFrom, pieceSegs]
  · simp [split, splitFrom_start a _ ha hne, splitFrom, pieceSegs_of_ne_nil hne]

theorem split_delimiters (n : Nat) (t : List Byte) :
    split (List.replicate n delimiter ++ t) = (split t).map (Seg.shift n) := by
  rw [split, splitFrom_delimiters, splitFrom_none, Nat.zero_add]

/-- A non-empty piece and any number of delimiters after it (R121). -/
theorem split_piece_delimiters (ha : delimiter ∉ a) (hne : a ≠ []) (k : Nat) (t : List Byte) :
    split (a ++ List.replicate (k + 1) delimiter ++ t) =
      ⟨0, a.length⟩ :: (split t).map (Seg.shift (a.length + (k + 1))) := by
  rw [List.replicate_succ, List.append_assoc, List.cons_append, split_piece_cons ha, split_delimiters, List.map_map,
    pieceSegs_of_ne_nil hne]
  refine congrArg (_ :: ·) (List.map_congr_left fun g _ => ?_)
  simp only [Function.comp_apply, Seg.shift, Seg.mk.injEq, and_true]
  omega

/-- Every text is one piece without delimiters, or such a piece, a delimiter and a text. -/
theorem piece_induction {P : List Byte → Prop} (last : ∀ a, delimiter ∉ a → P a)
    (cons : ∀ a rest, delimiter ∉ a → P rest → P (a ++ delimiter :: rest)) (t : List Byte) : P t := by
  by_cases h : delimiter ∈ t
  · obtain ⟨a, rest, rfl, ha⟩ := List.eq_append_cons_of_mem h
    exact cons a rest ha (piece_induction last cons rest)
  · exact last t h
termination_by t.length
decreasing_by
  subst_vars
  simp only [List.length_append, List.length_cons]
  omega

theorem segOctets_piece (a t : List Byte) : segOctets (a ++ t) ⟨0, a.length⟩ = a := by simp [segOctets]

theorem segOctets_shift (p t : List Byte) (g : Seg) : segOctets (p ++ t) (g.shift p.length) = segOctets t g := by
  simp [segOctets, List.drop_append, List.drop_eq_nil_of_le]

theorem segOctets_shift_piece (a rest : List Byte) (g : Seg) :
    segOctets (a ++ delimiter :: rest) (g.shift (a.length + 1)) = segOctets rest g := by
  simpa using segOctets_shift (a ++ [delimiter]) rest g

theorem getElem?_piece_cons (a rest : List Byte) (k : Nat) :
    (a ++ delimiter :: rest)[k + (a.length + 1)]? = rest[k]? := by
  rw [List.getElem?_append_right (by omega), show k + (a.length + 1) - a.length = k + 1 by omega,
    List.getElem?_cons_succ]

theorem map_segOctets_pieceSegs (a t : List Byte) :
    (pieceSegs a).map (segOctets (a ++ t)) = [a].filter (fun p => !p.isEmpty) := by
  by_cases hne : a = []
  · simp [hne, pieceSegs]
  · simp [hne, pieceSegs_of_ne_nil hne, segOctets_piece]

/-- The segments' octets are the non-empty pieces between delimiters. -/
theorem map_segOctets_split (t : List Byte) :
    (split t).map (segOctets t) = (t.splitOnP (· == delimiter)).filter (fun p => !p.isEmpty) := by
  have clean {a : List Byte} (ha : delimiter ∉ a) : ∀ x ∈ a, (x == delimiter) = false := by
    intro x hx
    simpa using ne_of_mem_of_not_mem hx ha
  induction t using piece_induction with
  | last a ha =>
    rw [split_piece ha, List.splitOnP_eq_singleton (clean ha)]
    simpa using map_segOctets_pieceSegs a []
  | cons a rest ha ih =>
    rw [split_piece_cons ha, List.splitOnP_append_cons_of_forall_mem (clean ha) _ (by simp), List.map_append,
      map_segOctets_pieceSegs, List.map_map, ← List.singleton_append (l := List.splitOnP _ rest), List.filter_append,
      ← ih]
    congr 1
    exact List.map_congr_left fun g _ => segOctets_shift_piece a rest g

/-- What bounds a segment, and that no delimiter lies in it (R110, R121). -/
structure IsMaximalRun (t : List Byte) (g : Seg) : Prop where
  left : g.start = 0 ∨ t[g.start - 1]? = some delimiter
  right : g.start + g.len = t.length ∨ t[g.start + g.len]? = some delimiter
  clean : delimiter ∉ segOctets t g

theorem isMaximalRun_of_mem_split (h : g ∈ split t) : IsMaximalRun t g := by
  induction t using piece_induction generalizing g with
  | last a ha =>
    rw [split_piece ha, mem_pieceSegs] at h
    obtain ⟨-, rfl⟩ := h
    exact ⟨.inl rfl, .inl (by simp), by simpa [segOctets] using ha⟩
  | cons a rest ha ih =>
    rw [split_piece_cons ha, List.mem_append, mem_pieceSegs, List.mem_map] at h
    rcases h with ⟨-, rfl⟩ | ⟨g, hg, rfl⟩
    · exact ⟨.inl rfl, .inr (by simp), by rwa [segOctets_piece]⟩
    · obtain ⟨hl, hr, hc⟩ := ih hg
      refine ⟨.inr ?_, hr.imp (fun h => ?_) fun h => ?_, by rwa [segOctets_shift_piece]⟩
      · cases hs : g.start with
        | zero => simp [hs]
        | succ k =>
          have hk : rest[k]? = some delimiter := by simpa [hs] using hl
          rw [Seg.shift_start, hs, Nat.add_right_comm, Nat.add_sub_cancel, getElem?_piece_cons, hk]
      · simp only [Seg.shift_start, Seg.shift_len, List.length_append, List.length_cons]
        omega
      · rw [Seg.shift_start, Seg.shift_len, Nat.add_right_comm, getElem?_piece_cons, h]

theorem pairwise_split (t : List Byte) : (split t).Pairwise (fun g h => g.start + g.len < h.start) := by
  have single (a : List Byte) : (pieceSegs a).Pairwise (fun g h => g.start + g.len < h.start) := by
    unfold pieceSegs
    split <;> simp
  induction t using piece_induction with
  | last a ha => exact split_piece ha ▸ single a
  | cons a rest ha ih =>
    rw [split_piece_cons ha, List.pairwise_append, List.pairwise_map]
    refine ⟨single a, ih.imp fun h => ?_, fun g hg h hh => ?_⟩
    · simp only [Seg.shift_start, Seg.shift_len]
      omega
    · obtain ⟨-, rfl⟩ := mem_pieceSegs.1 hg
      obtain ⟨h, -, rfl⟩ := List.mem_map.1 hh
      simp only [Seg.shift_start]
      omega

/-- Settles O22: each clause by the induction over the pieces of the text. -/
theorem splitIsNonEmptyPieces : Obligations.SplitIsNonEmptyPieces := by
  intro t
  refine ⟨map_segOctets_split t, fun g hg => ?_, pairwise_split t⟩
  obtain ⟨hpos, hin⟩ := split_bound hg
  obtain ⟨hl, hr, -⟩ := isMaximalRun_of_mem_split hg
  exact ⟨hpos, hin, hl, hr⟩

/-! ### What a segment's octets must be to decode (R114, R116) -/

theorem map_fst_octetsOf (t : List Byte) (g : Seg) : (octetsOf t g).map Prod.fst = segOctets t g :=
  List.zipIdx_map_fst _ _

/-- The octets the checks run over, as `symbolsOf` keeps them with their offsets (`map_fst_symbolsOf`). -/
def keptOctets (c : Config) (seg : List Byte) : List Byte :=
  if c.skipWhitespace then seg.filter (fun o => !isWhitespace o) else seg

theorem map_fst_symbolsOf (c : Config) (octets : List (Byte × Nat)) :
    (symbolsOf c octets).map Prod.fst = keptOctets c (octets.map Prod.fst) := by
  unfold symbolsOf keptOctets
  split
  · rw [List.filter_map]
    rfl
  · rfl

theorem keptOctets_eq_self (h : c.skipWhitespace = false) (seg : List Byte) : keptOctets c seg = seg := by
  simp [keptOctets, h]

theorem isWhitespace_eq_false_of_b64Val (o : Byte) : b64Val o ≠ none → isWhitespace o = false := by
  revert o
  decide

/-- Where every octet is a symbol, nothing is skipped. -/
theorem keptOctets_of_symbols (h : ∀ o ∈ seg, b64Val o ≠ none) : keptOctets c seg = seg := by
  unfold keptOctets
  split
  · exact List.filter_eq_self.2 fun o ho => by simp [isWhitespace_eq_false_of_b64Val o (h o ho)]
  · rfl

/-- The octets `seg` pass the checks of R114 and assemble to `out`, wherever they stand in a text
(`b64Decode_eq_ok_iff`). -/
structure Decodes (c : Config) (seg out : List Byte) : Prop where
  not_blank : seg ≠ [] → keptOctets c seg ≠ []
  symbols : ∀ o ∈ keptOctets c seg, b64Val o ≠ none
  length : (keptOctets c seg).length % 4 ≠ 1
  last : c.strictTrailingBits = true → ∀ o, (keptOctets c seg).getLast? = some o →
    trailingBitsSet ((keptOctets c seg).length % 4) o = false
  assembled : out = assemble ((keptOctets c seg).filterMap b64Val)

theorem decodes_nil_iff : Decodes c [] out ↔ out = [] := by
  have hk : keptOctets c [] = [] := by simp [keptOctets]
  refine ⟨fun h => by simpa [hk, assemble] using h.assembled, ?_⟩
  rintro rfl
  constructor <;> simp [hk, assemble]

/-- The lowest octet outside the alphabet decides (R114, check 1). -/
theorem b64DecodeSymbols_of_not_symbol {k : Nat} {p : Byte × Nat}
    (hbefore : ∀ j < k, ∀ q, (symbolsOf c octets)[j]? = some q → b64Val q.1 ≠ none)
    (hk : (symbolsOf c octets)[k]? = some p) (hp : b64Val p.1 = none) :
    b64DecodeSymbols c octets = .error ⟨.invalidSymbol, p.2, p.1⟩ := by
  obtain ⟨hlt, hpk⟩ := List.getElem?_eq_some_iff.1 hk
  have hf : (symbolsOf c octets).find? (fun p => (b64Val p.1).isNone) = some p := by
    rw [List.find?_eq_some_iff_getElem]
    refine ⟨by simp [hp], k, hlt, hpk, fun j hj => ?_⟩
    simpa [Option.isSome_iff_ne_none] using hbefore j hj _ (List.getElem?_eq_getElem (by omega))
  simp only [b64DecodeSymbols, hf]

/-- Where every octet is a symbol, the length and the last octet decide (R114, checks 2 and 3). -/
theorem b64DecodeSymbols_of_symbols (hv : ∀ p ∈ symbolsOf c octets, b64Val p.1 ≠ none) {o : Byte} {off : Nat}
    (hl : (symbolsOf c octets).getLast? = some (o, off)) :
    b64DecodeSymbols c octets =
      if (symbolsOf c octets).length % 4 = 1 then .error ⟨.invalidLength, off, o⟩
      else if c.strictTrailingBits && trailingBitsSet ((symbolsOf c octets).length % 4) o then
        .error ⟨.invalidLastSymbol, off, o⟩
      else .ok (assemble ((symbolsOf c octets).filterMap (fun p => b64Val p.1))) := by
  have hf : (symbolsOf c octets).find? (fun p => (b64Val p.1).isNone) = none :=
    List.find?_eq_none.2 fun p hp => by simpa using hv p hp
  simp only [b64DecodeSymbols, hf, hl]

/-- Offsets play no part in whether and to what octets decode. -/
theorem b64DecodeSymbols_eq_ok_iff : b64DecodeSymbols c octets = .ok out ↔ Decodes c (octets.map Prod.fst) out := by
  have hvals : (symbolsOf c octets).filterMap (fun p => b64Val p.1) =
      ((symbolsOf c octets).map Prod.fst).filterMap b64Val := by
    rw [List.filterMap_map]
    rfl
  refine ⟨fun h => ?_, fun h => ?_⟩
  · obtain ⟨hb, hv, ha, hm, hl⟩ := b64DecodeSymbols_ok h
    rw [hvals] at ha
    constructor <;> rw [← map_fst_symbolsOf]
    case not_blank => simpa using hb
    case symbols => simpa using hv
    case length => simpa using hm
    case last => simpa using hl
    case assembled => exact ha
  · by_cases hne : octets = []
    · subst hne
      rw [decodes_nil_iff.1 h]
      simp [b64DecodeSymbols, symbolsOf, blankSegment]
    · obtain ⟨hb, hv, hm, hl, rfl⟩ := h
      rw [← map_fst_symbolsOf] at hb hv hm hl ⊢
      rw [List.length_map] at hm hl
      cases hlast : (symbolsOf c octets).getLast? with
      | none => exact absurd (List.getLast?_eq_none_iff.1 hlast) (by simpa [hne] using hb)
      | some p =>
        have hbits : (c.strictTrailingBits && trailingBitsSet ((symbolsOf c octets).length % 4) p.1) = false := by
          rw [Bool.and_eq_false_imp]
          exact fun hs => hl hs p.1 (by simp [hlast])
        rw [b64DecodeSymbols_of_symbols (by simpa using hv) hlast, if_neg hm, hbits, hvals]
        rfl

theorem b64Decode_eq_ok_iff : b64Decode c t g = .ok out ↔ Decodes c (segOctets t g) out := by
  rw [b64Decode, b64DecodeSymbols_eq_ok_iff, map_fst_octetsOf]

/-! ### Delimiters and segments (R121) -/

theorem not_delimiter_of_mem_split (h : g ∈ split t) {k : Nat} (hk : k < g.len) :
    ∃ o, t[g.start + k]? = some o ∧ o ≠ delimiter := by
  obtain ⟨-, hin⟩ := split_bound h
  have hlt : g.start + k < t.length := by omega
  refine ⟨t[g.start + k], List.getElem?_eq_getElem hlt, fun hd => (isMaximalRun_of_mem_split h).clean ?_⟩
  exact List.mem_iff_getElem.2 ⟨k, by simp [segOctets]; omega, by simpa [segOctets] using hd⟩

theorem octetsOf_piece (a t : List Byte) : octetsOf (a ++ t) ⟨0, a.length⟩ = octetsOf a ⟨0, a.length⟩ := by
  simp [octetsOf]

/-- Settles O25: the runs are clean, the octets of the first piece stand where they stand alone, and those of the second
are the same octets. -/
theorem noDelimiterInSegments : Obligations.NoDelimiterInSegments := by
  refine ⟨fun t g hg k hk => not_delimiter_of_mem_split hg hk, fun c a b k ha hb hane hbne => ?_⟩
  have hsplit := split_piece_delimiters ha hane k b
  simp only [split_piece hb, pieceSegs_of_ne_nil hbne, List.map_cons, List.map_nil, Seg.shift, Nat.zero_add] at hsplit
  have hfirst := octetsOf_piece a (List.replicate (k + 1) delimiter ++ b)
  rw [← List.append_assoc] at hfirst
  have hsecond := segOctets_shift (a ++ List.replicate (k + 1) delimiter) b ⟨0, b.length⟩
  rw [Seg.shift, List.length_append, List.length_replicate, Nat.zero_add] at hsecond
  refine ⟨hsplit, congrArg (b64DecodeSymbols c) hfirst, fun out => ?_⟩
  rw [b64Decode_eq_ok_iff, b64Decode_eq_ok_iff, ← hsecond]
  rfl

/-! ### The alphabet and the order of the checks (R113, R114) -/

/-- Settles O26: the table has 256 rows, and both sides of each are computed. -/
theorem base64Alphabet : Obligations.Base64Alphabet := by
  unfold Obligations.Base64Alphabet
  decide

theorem length_octetsOf (h : g.start + g.len ≤ t.length) : (octetsOf t g).length = g.len := by
  simp only [octetsOf, List.length_zipIdx, List.length_take, List.length_drop]
  omega

theorem octetsOf_getElem? {k : Nat} (hk : k < g.len) :
    (octetsOf t g)[k]? = t[g.start + k]?.map (·, g.start + k) := by
  simp [octetsOf, List.getElem?_zipIdx, List.getElem?_take_of_lt hk]

theorem mem_octetsOf {p : Byte × Nat} (h : p ∈ octetsOf t g) : ∃ j < g.len, t[g.start + j]? = some p.1 := by
  obtain ⟨j, hj⟩ := List.mem_iff_getElem?.1 h
  have hlt : j < g.len := (List.getElem?_eq_some_iff.1 hj).1.trans_le (octetsOf_bound t g).1
  rw [octetsOf_getElem? hlt, Option.map_eq_some_iff] at hj
  obtain ⟨o, ho, rfl⟩ := hj
  exact ⟨j, hlt, ho⟩

theorem trailingBitsSet_iff {o : Byte} {v : BitVec 6} (h : b64Val o = some v) (r : Nat) :
    trailingBitsSet r o = true ↔ (r = 2 ∧ v &&& 0x0F#6 ≠ 0) ∨ (r = 3 ∧ v &&& 0x03#6 ≠ 0) := by
  simp [trailingBitsSet, h]

/-- Settles O27: check 1 stops at the octet, and after it the conditions of checks 2 and 3 are those of the statement. -/
theorem base64CheckOrder : Obligations.Base64CheckOrder := by
  intro c t g ⟨hstrict, hskip⟩ hpos hin
  have hself := symbolsOf_eq_self hskip (octetsOf t g)
  refine ⟨fun k hk hbefore hnone => ?_, fun hall last v hlast hv => ?_⟩
  · have hkt : t[g.start + k]? = some t[g.start + k] := List.getElem?_eq_getElem (by omega)
    refine b64DecodeSymbols_of_not_symbol (k := k) (p := (t[g.start + k], g.start + k)) ?_ ?_ hnone
    · intro j hj q hq
      rw [hself, octetsOf_getElem? (hj.trans hk), Option.map_eq_some_iff] at hq
      obtain ⟨o, ho, rfl⟩ := hq
      exact hbefore j hj o ho
    · rw [hself, octetsOf_getElem? hk, hkt, Option.map_some]
  · have hsymbols : ∀ p ∈ symbolsOf c (octetsOf t g), b64Val p.1 ≠ none := by
      intro p hp
      obtain ⟨j, hj, ho⟩ := mem_octetsOf (hself ▸ hp)
      exact hall j hj _ ho
    have hgl : (symbolsOf c (octetsOf t g)).getLast? = some (last, g.start + g.len - 1) := by
      rw [hself, List.getLast?_eq_getElem?, length_octetsOf hin, octetsOf_getElem? (by omega),
        ← Nat.add_sub_assoc hpos, hlast, Option.map_some]
    have hdec := b64DecodeSymbols_of_symbols hsymbols hgl
    rw [hself, length_octetsOf hin, hstrict, Bool.true_and] at hdec
    simp only [trailingBitsSet_iff hv] at hdec
    refine ⟨fun hr => ?_, fun hr => ?_, fun hr => ?_⟩
    · exact hdec.trans (if_pos hr)
    · exact hdec.trans ((if_neg (by omega)).trans (if_pos hr))
    · exact ⟨_, hdec.trans ((if_neg (by omega)).trans (if_neg (by grind)))⟩

/-! ### The decoded length (R115) -/

theorem length_assemble : ∀ v : List (BitVec 6), (assemble v).length =
    3 * (v.length / 4) + (if v.length % 4 = 2 then 1 else if v.length % 4 = 3 then 2 else 0)
  | _ :: _ :: _ :: _ :: v => by
    have ih := length_assemble v
    simp only [assemble, List.length_cons, ih]
    split_ifs <;> omega
  | [_, _, _] => by simp [assemble]
  | [_, _] => by simp [assemble]
  | [_] => by simp [assemble]
  | [] => by simp [assemble]

/-- The values of octets that are all symbols stand for those octets. -/
theorem map_b64Symbol_filterMap_b64Val (h : ∀ o ∈ seg, b64Val o ≠ none) :
    (seg.filterMap b64Val).map b64Symbol = seg := by
  induction seg with
  | nil => rfl
  | cons o seg ih =>
    obtain ⟨v, hv⟩ := Option.ne_none_iff_exists'.1 (h o (by simp))
    rw [List.filterMap_cons_some hv, List.map_cons, b64Symbol_of_b64Val o v hv, ih fun x hx => h x (by simp [hx])]

theorem Decodes.length_eq (h : Decodes c seg out) : out.length =
    3 * ((keptOctets c seg).length / 4) +
      (if (keptOctets c seg).length % 4 = 2 then 1 else if (keptOctets c seg).length % 4 = 3 then 2 else 0) := by
  have hlen := congrArg List.length (map_b64Symbol_filterMap_b64Val h.symbols)
  rw [List.length_map] at hlen
  rw [h.assembled, length_assemble, hlen]

/-- Settles O28: the bounds hold with or without skipping, and where nothing is skipped the count is `assemble`'s. -/
theorem base64DecodedLength : Obligations.Base64DecodedLength := by
  intro c t out g hpos hin h
  refine ⟨length_pos_of_b64Decode hpos hin h, length_le_of_b64Decode h, fun hskip => ?_⟩
  have hseg := b64Decode_eq_ok_iff.1 h
  have hkept : (keptOctets c (segOctets t g)).length = g.len := by
    rw [keptOctets_eq_self hskip, ← map_fst_octetsOf, List.length_map, length_octetsOf hin]
  have hlen := hseg.length_eq
  have hmod := hseg.length
  rw [hkept] at hlen hmod
  refine ⟨hlen, ?_⟩
  rw [hlen]
  split_ifs <;> omega

/-! ### Canonical encodings (R114, R116; 92 D6) -/

/-- The values of the symbols that encode a byte sequence (`b64Encode_eq`). -/
def sextets : List Byte → List (BitVec 6)
  | a :: b :: c :: rest =>
    let q : BitVec 24 := a ++ b ++ c
    q.extractLsb' 18 6 :: q.extractLsb' 12 6 :: q.extractLsb' 6 6 :: q.extractLsb' 0 6 :: sextets rest
  | [a, b] =>
    let q : BitVec 24 := a ++ b ++ 0#8
    [q.extractLsb' 18 6, q.extractLsb' 12 6, q.extractLsb' 6 6]
  | [a] =>
    let q : BitVec 24 := a ++ 0#16
    [q.extractLsb' 18 6, q.extractLsb' 12 6]
  | [] => []

theorem b64Encode_eq : ∀ d : List Byte, b64Encode d = (sextets d).map b64Symbol
  | _ :: _ :: _ :: rest => by simp [b64Encode, sextets, b64Encode_eq rest]
  | [_, _] => rfl
  | [_] => rfl
  | [] => rfl

/-- The values that pass checks 2 and 3 of R114 (`canonical_iff`). -/
def Canonical : List (BitVec 6) → Prop
  | _ :: _ :: _ :: _ :: rest => Canonical rest
  | [_, _, z] => z &&& 0x03#6 = 0#6
  | [_, y] => y &&& 0x0F#6 = 0#6
  | [_] => False
  | [] => True

theorem trailingBitsSet_b64Symbol (r : Nat) (v : BitVec 6) :
    trailingBitsSet r (b64Symbol v) = (r == 2 && v &&& 0x0F#6 != 0#6 || r == 3 && v &&& 0x03#6 != 0#6) := by
  simp only [trailingBitsSet, b64Val_b64Symbol]

theorem canonical_iff : ∀ v : List (BitVec 6), Canonical v ↔ v.length % 4 ≠ 1 ∧
      ∀ x, v.getLast? = some x → trailingBitsSet (v.length % 4) (b64Symbol x) = false
  | x :: y :: z :: u :: rest => by
    have ih := canonical_iff rest
    rw [Canonical, ih]
    cases rest with
    | nil => simp [trailingBitsSet_b64Symbol]
    | cons w rest =>
      have hlen : (x :: y :: z :: u :: w :: rest).length = (w :: rest).length + 4 := rfl
      simp only [hlen, Nat.add_mod_right, List.getLast?_cons_cons]
  | [_, _, z] => by simp [Canonical, trailingBitsSet_b64Symbol]
  | [_, y] => by simp [Canonical, trailingBitsSet_b64Symbol]
  | [_] => by simp [Canonical]
  | [] => by simp [Canonical]

/-- The low bits that `assemble` drops are those a canonical ending has at 0. -/
theorem low_bits_eq_zero_iff (v : BitVec 6) :
    (v &&& 0x03#6 = 0#6 ↔ v.toNat % 4 = 0) ∧ (v &&& 0x0F#6 = 0#6 ↔ v.toNat % 16 = 0) := by
  revert v
  decide

theorem toNat_append_eq {m n : Nat} (x : BitVec m) (y : BitVec n) :
    (x ++ y).toNat = x.toNat * 2 ^ n + y.toNat := by
  rw [BitVec.toNat_append, ← Nat.shiftLeft_add_eq_or_of_lt y.isLt, Nat.shiftLeft_eq]

theorem toNat_extractLsb'_eq (k n : Nat) {w : Nat} (q : BitVec w) :
    (q.extractLsb' k n).toNat = q.toNat / 2 ^ k % 2 ^ n := by
  rw [BitVec.extractLsb'_toNat, Nat.shiftRight_eq_div_pow]

theorem canonical_sextets : ∀ d : List Byte, Canonical (sextets d)
  | _ :: _ :: _ :: rest => canonical_sextets rest
  | [a, b] => by
    simp only [sextets, Canonical, (low_bits_eq_zero_iff _).1, toNat_extractLsb'_eq, toNat_append_eq,
      BitVec.toNat_ofNat]
    omega
  | [a] => by
    simp only [sextets, Canonical, (low_bits_eq_zero_iff _).2, toNat_extractLsb'_eq, toNat_append_eq,
      BitVec.toNat_ofNat]
    omega
  | [] => trivial

/-- Bytes, their sextets and the bytes again, group by group as numbers. -/
theorem assemble_sextets : ∀ d : List Byte, assemble (sextets d) = d
  | a :: b :: c :: rest => by
    simp only [sextets, assemble, assemble_sextets rest, List.cons.injEq, and_true, ← BitVec.toNat_inj,
      toNat_extractLsb'_eq, toNat_append_eq]
    omega
  | [a, b] => by
    simp only [sextets, assemble, List.cons.injEq, and_true, ← BitVec.toNat_inj, toNat_extractLsb'_eq, toNat_append_eq,
      BitVec.toNat_ofNat]
    omega
  | [a] => by
    simp only [sextets, assemble, List.cons.injEq, and_true, ← BitVec.toNat_inj, toNat_extractLsb'_eq, toNat_append_eq,
      BitVec.toNat_ofNat]
    omega
  | [] => rfl

/-- The other way round, the bits that `assemble` drops must be 0. -/
theorem sextets_assemble : ∀ v : List (BitVec 6), Canonical v → sextets (assemble v) = v
  | x :: y :: z :: u :: rest, h => by
    simp only [sextets, assemble, sextets_assemble rest h, List.cons.injEq, and_true, ← BitVec.toNat_inj,
      toNat_extractLsb'_eq, toNat_append_eq]
    omega
  | [x, y, z], h => by
    have hlow := (low_bits_eq_zero_iff z).1.1 h
    simp only [sextets, assemble, List.cons.injEq, and_true, ← BitVec.toNat_inj, toNat_extractLsb'_eq, toNat_append_eq,
      BitVec.toNat_ofNat]
    omega
  | [x, y], h => by
    have hlow := (low_bits_eq_zero_iff y).2.1 h
    simp only [sextets, assemble, List.cons.injEq, and_true, ← BitVec.toNat_inj, toNat_extractLsb'_eq, toNat_append_eq,
      BitVec.toNat_ofNat]
    omega
  | [_], h => h.elim
  | [], _ => rfl

theorem filterMap_b64Val_map_b64Symbol (v : List (BitVec 6)) : (v.map b64Symbol).filterMap b64Val = v := by
  simp [List.filterMap_map, b64Val_b64Symbol]

/-- The symbols of canonical values decode, whatever is skipped or checked. -/
theorem decodes_map_b64Symbol {v : List (BitVec 6)} (hv : Canonical v) :
    Decodes c (v.map b64Symbol) (assemble v) := by
  have hsymbols : ∀ o ∈ v.map b64Symbol, b64Val o ≠ none := by simp [b64Val_b64Symbol]
  have hkept : keptOctets c (v.map b64Symbol) = v.map b64Symbol := keptOctets_of_symbols hsymbols
  obtain ⟨hlen, hlast⟩ := (canonical_iff v).1 hv
  constructor <;> rw [hkept]
  case not_blank => exact id
  case symbols => exact hsymbols
  case length => rwa [List.length_map]
  case last => simpa using fun _ => hlast
  case assembled => rw [filterMap_b64Val_map_b64Symbol]

/-- Under the spec's rule only the symbols of canonical values decode. -/
theorem Decodes.canonical (h : Decodes c seg out) (hs : c.SpecRule) :
    ∃ v, Canonical v ∧ seg = v.map b64Symbol ∧ out = assemble v := by
  obtain ⟨hstrict, hskip⟩ := hs
  obtain ⟨-, hsymbols, hlen, hlast, hout⟩ := h
  rw [keptOctets_eq_self hskip] at hsymbols hlen hlast hout
  have hseg := map_b64Symbol_filterMap_b64Val hsymbols
  refine ⟨seg.filterMap b64Val, ?_, hseg.symm, hout⟩
  rw [← hseg, List.length_map] at hlen hlast
  refine (canonical_iff _).2 ⟨hlen, fun x hx => hlast hstrict _ ?_⟩
  rw [List.getLast?_map, hx, Option.map_some]

theorem decodes_b64Encode (c : Config) (d : List Byte) : Decodes c (b64Encode d) d := by
  have h := decodes_map_b64Symbol (c := c) (canonical_sextets d)
  rwa [← b64Encode_eq, assemble_sextets] at h

theorem decodes_iff_eq_b64Encode (hs : c.SpecRule) : Decodes c seg out ↔ seg = b64Encode out := by
  refine ⟨fun h => ?_, ?_⟩
  · obtain ⟨v, hv, rfl, rfl⟩ := h.canonical hs
    rw [b64Encode_eq, sextets_assemble v hv]
  · rintro rfl
    exact decodes_b64Encode c out

/-- Settles O29: a segment that decodes is the symbols of canonical values, which are the values of what they assemble
to. -/
theorem onlyCanonicalBase64Decodes : Obligations.OnlyCanonicalBase64Decodes := by
  intro c t out g hs _ _
  exact b64Decode_eq_ok_iff.trans (decodes_iff_eq_b64Encode hs)

end Sys2Proof.Machine
end

section
/-! PROOFS. The armor family (40_armor.md), the commands: the split each of the three records, `SPLIT`, `DECODE` of a text that decodes, and the round trip. -/

namespace Sys2Proof.Machine

variable {s t u v : State} {g : Seg} {d : List Byte}

/-! ### The record of the split (R112) -/

theorem recordsSplit_recordSplit (s : State) : s.RecordsSplit (recordSplit (split (textOperand s)) s) :=
  ⟨rfl, rfl, rfl⟩

theorem State.RecordsSplit.congr (h : s.RecordsSplit u) (hcount : v.segCount = u.segCount) (h0 : v.seg0 = u.seg0)
    (h1 : v.seg1 = u.seg1) : s.RecordsSplit v :=
  ⟨hcount.trans h.count, h0.trans h.seg0, h1.trans h.seg1⟩

/-- `decode_armor` records the split, whatever its outcome. -/
theorem recordsSplit_decodeArmor (h : decodeArmor s = .error u ∨ decodeArmor s = .ok u) : s.RecordsSplit u := by
  have hr := recordsSplit_recordSplit s
  have hc := decodeArmor_cases s
  generalize decodeArmor s = r at h hc
  cases hc with
  | structural _ hs | data _ _ hs | checksum _ _ hs | format _ _ hs | decoded _ _ hs =>
    obtain rfl : _ = u := by simpa using h
    rw [hs] at hr
    exact hr.congr rfl rfl rfl

theorem recordsSplit_splitText (s : State) : s.RecordsSplit (splitText s) := by
  have hr := recordsSplit_recordSplit s
  rw [splitText_eq]
  split
  · exact hr.congr rfl rfl rfl
  · exact hr.congr rfl rfl rfl

theorem recordsSplit_compareClaim (h : s.RecordsSplit u) : s.RecordsSplit (compareClaim u) := by
  rw [compareClaim_eq]
  split
  · exact h.congr rfl rfl rfl
  · exact h.congr rfl rfl rfl

theorem exec_recordsSplit {i : Instr} (hi : i = .armSplit ∨ i = .armDecode ∨ i = .armValidate) (s : State) :
    ∃ t, exec i s = .next t ∧ s.RecordsSplit t := by
  rcases hi with rfl | hi
  · exact ⟨_, exec_armSplit s, (recordsSplit_splitText s).congr rfl rfl rfl⟩
  · cases h : decodeArmor s with
    | error u =>
      exact ⟨_, exec_of_decodeArmor_error hi h, (recordsSplit_decodeArmor (.inl h)).congr rfl rfl rfl⟩
    | ok u =>
      have hr := recordsSplit_decodeArmor (.inr h)
      rcases hi with rfl | rfl
      · exact ⟨_, exec_armDecode_of_ok h, hr.congr rfl rfl rfl⟩
      · have hcrc : s.RecordsSplit (checksumPayload u) := hr.congr rfl rfl rfl
        exact ⟨_, exec_armValidate_of_ok h, (recordsSplit_compareClaim hcrc).congr rfl rfl rfl⟩

theorem segWordAt_of_none {segs : List Seg} {k : Nat} (h : segs[k]? = none) : segWordAt segs k = 0 := by
  rw [segWordAt, h]

theorem segWordAt_of_some {segs : List Seg} {k : Nat} (h : segs[k]? = some g) : segWordAt segs k = segWord g := by
  rw [segWordAt, h]

theorem segWord_eq_append (hlen : g.len < 2 ^ 16) (hstart : g.start < 2 ^ 16) :
    segWord g = BitVec.ofNat 16 g.len ++ BitVec.ofNat 16 g.start := by
  have hl : g.len <<< 16 % 2 ^ 32 = g.len <<< 16 := Nat.mod_eq_of_lt (by rw [Nat.shiftLeft_eq]; omega)
  rw [← BitVec.toNat_inj, segWord, BitVec.toNat_or, BitVec.toNat_shiftLeft, BitVec.toNat_append]
  simp only [BitVec.toNat_ofNat, Nat.mod_eq_of_lt hlen, Nat.mod_eq_of_lt hstart,
    Nat.mod_eq_of_lt (hlen.trans (by decide : 2 ^ 16 < 2 ^ 32)),
    Nat.mod_eq_of_lt (hstart.trans (by decide : 2 ^ 16 < 2 ^ 32)), hl]

/-- The fields of a recorded segment are cut nowhere for a legal capacity (R8, R112). -/
theorem segWordAt_fits (hcap : s.textLen.toNat ≤ 16384) {k : Nat} (hg : (split (textOperand s))[k]? = some g) :
    segWordAt (split (textOperand s)) k = BitVec.ofNat 16 g.len ++ BitVec.ofNat 16 g.start ∧ g.start < 16384 ∧
      g.len ≤ 16384 := by
  have hmem := List.mem_of_getElem? hg
  have hin := le_textLen_of_mem_split hmem
  obtain ⟨hpos, -⟩ := split_bound hmem
  rw [segWordAt_of_some hg, segWord_eq_append (by omega) (by omega)]
  exact ⟨rfl, by omega, by omega⟩

/-- Settles O23: each command records the split, and count and segments are bounded by the text's length. -/
theorem splitRecordFits : Obligations.SplitRecordFits := by
  intro s i hi hcap
  obtain ⟨t, ht, hcount, h0, h1⟩ := exec_recordsSplit hi s
  have hlen := split_length (textOperand s)
  rw [length_textOperand] at hlen
  refine ⟨t, ht, ?_, fun hn => ?_, fun hn => ?_, fun g hg => ?_, fun g hg => ?_⟩
  · rw [hcount, BitVec.toNat_ofNat]
    exact Nat.mod_eq_of_lt (by omega)
  · rw [h0, segWordAt_of_none hn]
  · rw [h1, segWordAt_of_none hn]
  · rw [h0]
    exact segWordAt_fits hcap hg
  · rw [h1]
    exact segWordAt_fits hcap hg

/-! ### `SPLIT` (R119) -/

theorem keepsInputs_of_exec {i : Instr} (hi : i ≠ .clear) (he : exec i s = .next t) : s.KeepsInputs t := by
  obtain ⟨u, hu, hk⟩ := exec_eq_complete i s
  cases hu.symm.trans he
  exact keepsInputs_complete (hk.resolve_left fun h => hi h.1)

/-- Settles O24: the count decides between `finish OK` and the structural error, both after the record. -/
theorem splitCommandChecksCount : Obligations.SplitCommandChecksCount := by
  refine ⟨by decide, fun s => ⟨_, exec_armSplit s, completed_of_exec (exec_armSplit s),
    keepsInputs_of_exec (by decide) (exec_armSplit s), (recordsSplit_splitText s).congr rfl rfl rfl, ?_⟩⟩
  by_cases h2 : (split (textOperand s)).length = 2
  · rw [(splitText_eq s).trans (if_pos h2)]
    exact ⟨rfl, fun _ => ⟨rfl, rfl, rfl, rfl, fun _ => rfl⟩, absurd h2⟩
  · rw [(splitText_eq s).trans (if_neg h2)]
    exact ⟨rfl, fun h => absurd h h2, fun _ => ⟨rfl, rfl, rfl, rfl⟩⟩

/-! ### `DECODE` of a text that decodes (R117, R118, R120) -/

theorem claimedValue_eq_append (c0 c1 c2 : Byte) : claimedValue c0 c1 c2 = c0 ++ c1 ++ c2 := by
  have h0 : c0.toNat <<< 16 % 2 ^ 24 = c0.toNat <<< 16 := Nat.mod_eq_of_lt (by rw [Nat.shiftLeft_eq]; omega)
  have h1 : c1.toNat <<< 8 % 2 ^ 24 = c1.toNat <<< 8 := Nat.mod_eq_of_lt (by rw [Nat.shiftLeft_eq]; omega)
  rw [← BitVec.toNat_inj, claimedValue]
  simp only [BitVec.toNat_or, BitVec.toNat_shiftLeft, BitVec.toNat_append,
    BitVec.toNat_setWidth_of_le (by decide : 8 ≤ 24), h0, h1, Nat.shiftLeft_or_distrib, ← Nat.shiftLeft_add]

section
variable {g0 g1 : Seg} {c0 c1 c2 : Byte} (hs : split (textOperand s) = [g0, g1])
  (hd : b64Decode s.cfg (textOperand s) g0 = .ok d) (hc : b64Decode s.cfg (textOperand s) g1 = .ok [c0, c1, c2])
include hs hd

theorem length_lt_of_decodes : d.length < 2 ^ 32 := by
  have hle := length_le_of_b64Decode hd
  have hin := le_textLen_of_mem_split (s := s) (g := g0) (by simp [hs])
  have hlt := s.textLen.isLt
  omega

include hc

theorem decodeArmor_of_decodes :
    decodeArmor s = .ok (storeDecoded d (c0 ++ c1 ++ c2) (recordSplit [g0, g1] s)) := by
  rw [← claimedValue_eq_append]
  exact decodeArmor_eq_of_case (.decoded g0 g1 hs d c0 c1 c2 hd hc)

end

/-- Settles O34: `decode_armor` goes on with the stored payload, and `finish OK` adds the outcome. -/
theorem decodeStoresPayload : Obligations.DecodeStoresPayload := by
  intro s g0 g1 d c0 c1 c2 hs hd hc
  have hlen := length_lt_of_decodes hs hd
  have hok := decodeArmor_of_decodes hs hd hc
  have hexec := exec_armDecode_of_ok hok
  have hpayLen : (storeDecoded d (c0 ++ c1 ++ c2) (recordSplit [g0, g1] s)).payLen.toNat = d.length := by
    simpa using Nat.mod_eq_of_lt hlen
  obtain ⟨hpay, hrest⟩ := payload_of_writeBytes (s := s) rfl hpayLen rfl
  exact ⟨_, hexec, completed_of_exec hexec, keepsInputs_of_exec (by decide) hexec,
    (recordsSplit_decodeArmor (.inr hok)).congr rfl rfl rfl, rfl, rfl, rfl, hpayLen, hpay, hrest, rfl⟩

/-! ### The round trip (R122) -/

theorem delimiter_not_mem_b64Encode (d : List Byte) : delimiter ∉ b64Encode d := by
  rw [b64Encode_eq, List.mem_map]
  rintro ⟨v, -, hv⟩
  have h := b64Val_b64Symbol v
  rw [hv] at h
  cases h

theorem b64Encode_ne_nil (hne : d ≠ []) : b64Encode d ≠ [] := by
  match d, hne with
  | _ :: _ :: _ :: _, _ | [_, _], _ | [_], _ => simp [b64Encode]

/-- The padding of the data and the delimiter after it are one run of delimiters; three bytes need no padding. -/
theorem armoredText_eq (d : List Byte) :
    armoredText d = b64Encode d ++ List.replicate ((3 - d.length % 3) % 3 + 1) delimiter ++
      (b64Encode (bigEndian24 (crc24 d)) ++ [delimiter]) := by
  simp [armoredText, b64Padded, bigEndian24, List.replicate_succ', List.append_assoc]

/-- The segments of an armored text are the two encodings. -/
theorem segments_armoredText (hne : d ≠ []) :
    ∃ g0 g1, split (armoredText d) = [g0, g1] ∧ segOctets (armoredText d) g0 = b64Encode d ∧
      segOctets (armoredText d) g1 = b64Encode (bigEndian24 (crc24 d)) := by
  rw [armoredText_eq]
  generalize (3 - d.length % 3) % 3 = k
  generalize hb : b64Encode (bigEndian24 (crc24 d)) = b
  have hclean : delimiter ∉ b := hb ▸ delimiter_not_mem_b64Encode _
  have hbne : b ≠ [] := hb ▸ b64Encode_ne_nil (by simp [bigEndian24])
  have hsb : split (b ++ [delimiter]) = [⟨0, b.length⟩] := by
    rw [split_piece_cons hclean, pieceSegs_of_ne_nil hbne]
    rfl
  have hs := split_piece_delimiters (delimiter_not_mem_b64Encode d) (b64Encode_ne_nil hne) k (b ++ [delimiter])
  have hp : (b64Encode d).length + (k + 1) = (b64Encode d ++ List.replicate (k + 1) delimiter).length := by simp
  rw [hsb, hp, List.map_singleton] at hs
  refine ⟨_, _, hs, ?_, ?_⟩
  · rw [List.append_assoc, segOctets_piece]
  · rw [segOctets_shift, segOctets_piece]

theorem bigEndian24_append (v : Word) :
    (v.extractLsb' 16 8 ++ v.extractLsb' 8 8 ++ v.extractLsb' 0 8 : Word24) = v.setWidth 24 := by
  rw [← BitVec.toNat_inj]
  simp only [toNat_append_eq, toNat_extractLsb'_eq, BitVec.toNat_setWidth]
  omega

theorem crc24_setWidth (d : List Byte) : ((crc24 d).setWidth 24).setWidth 32 = crc24 d := by
  rw [setWidth_setWidth_24, crc24, BitVec.and_assoc, BitVec.and_self]

/-- Settles O30: the text's two segments are encodings, which decode to `d` and the bytes of its CRC, and the claim they
make is the CRC `VALIDATE` computes. -/
theorem armorRoundTrip : Obligations.ArmorRoundTrip := by
  intro d s hne htext
  obtain ⟨g0, g1, hs, h0, h1⟩ := segments_armoredText hne
  rw [← htext] at hs h0 h1
  have hd : b64Decode s.cfg (textOperand s) g0 = .ok d := b64Decode_eq_ok_iff.2 (h0 ▸ decodes_b64Encode _ d)
  have hc : b64Decode s.cfg (textOperand s) g1 = .ok (bigEndian24 (crc24 d)) :=
    b64Decode_eq_ok_iff.2 (h1 ▸ decodes_b64Encode _ _)
  have hlen := length_lt_of_decodes hs hd
  have hok := decodeArmor_of_decodes hs hd hc
  rw [bigEndian24_append] at hok
  have hpay := payOperand_storeDecoded hlen ((crc24 d).setWidth 24) (recordSplit [g0, g1] s)
  refine ⟨⟨_, exec_armDecode_of_ok hok, rfl, hpay, crc24_setWidth d⟩, _, exec_armValidate_of_ok hok, ?_⟩
  rw [compareClaim_checksum_storeDecoded hlen, if_pos rfl]
  exact ⟨rfl, hpay⟩

end Sys2Proof.Machine
end

section
/-! PROOFS. The CRC family (41_crc24.md), the function: the 32-bit rounds of R140 as those of a 24-bit register, which takes in one bit at a time and loses nothing. -/

namespace Sys2Proof.Machine

variable {acc : Word}

/-! ### The 24-bit register -/

/-- One step of the serial division by the polynomial: the register takes in the bit `c` (R140, R143). -/
def crcFeed (a : Word24) (c : Bool) : Word24 :=
  if a.getLsbD 23 != c then (a <<< 1) ^^^ 0x864CFB#24 else a <<< 1

/-- `crcShifts` in 24 bits. -/
def crcFeedZeros (k : Nat) (a : Word24) : Word24 := (crcFeed · false)^[k] a

/-- `crcStep` in 24 bits. -/
def crcStep24 (a : Word24) (b : Byte) : Word24 := crcFeedZeros 8 (a ^^^ (b.setWidth 24 <<< 16))

/-- `crcFrom` in 24 bits. -/
def crcFrom24 (a : Word24) (s : List Byte) : Word24 := s.foldl crcStep24 a

theorem crcFeed_getLsbD (a : Word24) (c : Bool) (i : Nat) :
    (crcFeed a c).getLsbD i = ((a <<< 1).getLsbD i ^^ ((a.getLsbD 23 ^^ c) && (0x864CFB#24).getLsbD i)) := by
  unfold crcFeed
  split <;> simp_all

theorem crcFeedZeros_succ (k : Nat) (a : Word24) : crcFeedZeros (k + 1) a = crcFeed (crcFeedZeros k a) false :=
  Function.iterate_succ_apply' _ k a

/-! ### The rounds of R140 in 24 bits (R142) -/

/-- The 32-bit polynomial is the 24-bit one with the bit 24 that it cancels. -/
theorem crcPoly_getLsbD : ∀ i < 32, crcPoly.getLsbD i = (decide (i = 24) ^^ (0x864CFB#24).getLsbD i) := by
  decide

theorem crcShift_setWidth (a : Word24) : crcShift (a.setWidth 32) = (crcFeed a false).setWidth 32 := by
  apply BitVec.eq_of_getLsbD_eq
  intro i hi
  rw [crcShift_getLsbD, crcPoly_getLsbD i hi, BitVec.getLsbD_setWidth, crcFeed_getLsbD]
  rcases Nat.lt_trichotomy i 24 with h | rfl | h
  · simp [h, hi, h.ne, show i - 1 < 32 by omega, -BitVec.getLsbD_eq_getElem]
  · simp
  · have : a.getLsbD (i - 1) = false := BitVec.getLsbD_of_ge _ _ (by omega)
    simp [this, hi, h.ne', h.not_gt]

theorem crcShifts_setWidth (k : Nat) (a : Word24) : crcShifts k (a.setWidth 32) = (crcFeedZeros k a).setWidth 32 := by
  induction k generalizing a with
  | zero => rfl
  | succ k ih => rw [crcShifts_succ, crcShift_setWidth, ih]; rfl

theorem setWidth_xor_immWord (a : Word24) (b : Byte) :
    a.setWidth 32 ^^^ (immWord b <<< 16) = (a ^^^ (b.setWidth 24 <<< 16)).setWidth 32 := by
  apply BitVec.eq_of_getLsbD_eq
  intro i hi
  by_cases h : i < 24
  · simp [immWord, h, hi]
  · have : b.getLsbD (i - 16) = false := BitVec.getLsbD_of_ge _ _ (by omega)
    simp [immWord, h, this]

theorem crcStep_setWidth (a : Word24) (b : Byte) : crcStep (a.setWidth 32) b = (crcStep24 a b).setWidth 32 := by
  rw [crcStep, setWidth_xor_immWord, crcShifts_setWidth, crcStep24]

theorem crcFrom_setWidth (a : Word24) (s : List Byte) : crcFrom (a.setWidth 32) s = (crcFrom24 a s).setWidth 32 :=
  List.foldl_hom (BitVec.setWidth 32) crcStep_setWidth

theorem toNat_setWidth_lt (a : Word24) : (a.setWidth 32).toNat < 2 ^ 24 := by
  rw [BitVec.toNat_setWidth_of_le (by decide)]
  exact a.isLt

theorem setWidth_mask24_eq_self (a : Word24) : a.setWidth 32 &&& 0x00FFFFFF#32 = a.setWidth 32 := by
  rw [← setWidth_setWidth_24]
  simp

theorem crc24_eq_setWidth (s : List Byte) : crc24 s = (crcFrom24 0xB704CE#24 s).setWidth 32 := by
  rw [crc24, show crcSeed = (0xB704CE#24).setWidth 32 by decide, crcFrom_setWidth, setWidth_mask24_eq_self]

/-- A 24-bit value is one that a 24-bit register holds. -/
theorem exists_eq_setWidth (h : acc.toNat < 2 ^ 24) : ∃ a : Word24, acc = a.setWidth 32 :=
  ⟨acc.setWidth 24, by
    apply BitVec.eq_of_toNat_eq
    simp only [BitVec.toNat_setWidth]
    omega⟩

/-- Settles O13: each value is one of the 24-bit register, widened. -/
theorem crcStaysBelow24Bits : Obligations.CrcStaysBelow24Bits := by
  intro acc b hacc
  obtain ⟨a, rfl⟩ := exists_eq_setWidth hacc
  rw [setWidth_xor_immWord]
  refine ⟨toNat_setWidth_lt _, fun k _ => ?_, fun k _ => ?_, fun s => ?_⟩
  · rw [crcShifts_setWidth]
    have := toNat_setWidth_lt (crcFeedZeros k (a ^^^ (b.setWidth 24 <<< 16)))
    rw [BitVec.toNat_shiftLeft, Nat.shiftLeft_eq]
    omega
  · rw [crcShifts_setWidth]
    exact toNat_setWidth_lt _
  · rw [crcFrom_setWidth]
    exact ⟨toNat_setWidth_lt _, setWidth_mask24_eq_self _⟩

/-! ### One bit at a time (R143) -/

/-- A bit that stands XORed into the register is one that it takes in as it reaches the top. -/
theorem crcFeed_xor (a y : Word24) : crcFeed (a ^^^ y) false = crcFeed a (y.getLsbD 23) ^^^ (y <<< 1) := by
  apply BitVec.eq_of_getLsbD_eq
  intro i hi
  simp only [crcFeed_getLsbD, BitVec.getLsbD_xor, BitVec.shiftLeft_xor_distrib, Bool.xor_false, Bool.xor_assoc,
    Bool.xor_comm ((y <<< 1).getLsbD i)]

/-- A value XORed in beforehand is its bits fed from bit 23 down, and what has not been fed stays XORed in. -/
theorem crcFeedZeros_xor (k : Nat) (a y : Word24) (hk : k ≤ 24) :
    crcFeedZeros k (a ^^^ y) = (List.range k).foldl (fun a i => crcFeed a (y.getLsbD (23 - i))) a ^^^ (y <<< k) := by
  induction k with
  | zero => simp [crcFeedZeros]
  | succ k ih =>
    have htop : (y <<< k).getLsbD 23 = y.getLsbD (23 - k) := by
      simp [show ¬23 < k by omega, -BitVec.getLsbD_eq_getElem]
    rw [crcFeedZeros_succ, ih (by omega), crcFeed_xor, htop, List.range_succ, List.foldl_append,
      ← BitVec.shiftLeft_add]
    rfl

theorem crcStep24_eq_serial (a : Word24) (b : Byte) :
    crcStep24 a b = [7, 6, 5, 4, 3, 2, 1, 0].foldl (fun a k => crcFeed a (b.getLsbD k)) a := by
  have hbit : ∀ i, i < 8 → (b.setWidth 24 <<< 16).getLsbD (23 - i) = b.getLsbD (7 - i) := by
    intro i hi
    rw [BitVec.getLsbD_shiftLeft, BitVec.getLsbD_setWidth, show 23 - i - 16 = 7 - i by omega]
    simp [show 23 - i < 24 by omega, show ¬23 - i < 16 by omega, show 7 - i < 24 by omega]
  have hout : (b.setWidth 24 <<< 16) <<< 8 = 0#24 := by
    simp [← BitVec.shiftLeft_add]
  rw [crcStep24, crcFeedZeros_xor _ _ _ (by decide), hout, BitVec.xor_zero]
  calc (List.range 8).foldl (fun a i => crcFeed a ((b.setWidth 24 <<< 16).getLsbD (23 - i))) a
      = (List.range 8).foldl (fun a i => crcFeed a (b.getLsbD (7 - i))) a :=
        List.foldl_ext _ _ _ fun a i hi => by rw [hbit i (List.mem_range.1 hi)]
    _ = _ := rfl

/-- Settles O14: the byte XORed in above is the byte fed from bit 7 down. -/
theorem crcStepIsMsbFirst : Obligations.CrcStepIsMsbFirst := by
  intro a b
  rw [crcStep_setWidth, crcStep24_eq_serial]
  rfl

/-! ### Nothing is lost (R151) -/

/-- The polynomial ends in 1, so bit 0 of the result says whether it was subtracted. -/
theorem crcFeed_injective (c : Bool) : Function.Injective (crcFeed · c) := by
  intro a a' h
  have hbit (i : Nat) : (crcFeed a c).getLsbD i = (crcFeed a' c).getLsbD i := congrArg (BitVec.getLsbD · i) h
  simp only [crcFeed_getLsbD] at hbit
  have htop : a.getLsbD 23 = a'.getLsbD 23 := by simpa using hbit 0
  apply BitVec.eq_of_getLsbD_eq
  intro i hi
  by_cases h23 : i = 23
  · rw [h23, htop]
  · simpa [htop, show i + 1 < 24 by omega, -BitVec.getLsbD_eq_getElem] using hbit (i + 1)

theorem crcFeedZeros_injective (k : Nat) : Function.Injective (crcFeedZeros k) :=
  (crcFeed_injective false).iterate k

/-- The register before the byte is told by the register after it. -/
theorem crcStep24_left_injective (b : Byte) : Function.Injective (crcStep24 · b) :=
  fun _ _ h => (BitVec.xor_left_inj _).1 (crcFeedZeros_injective 8 h)

/-- The byte is told by the registers before and after it. -/
theorem crcStep24_right_injective (a : Word24) : Function.Injective (crcStep24 a) := by
  intro b b' h
  have hb := (BitVec.xor_right_inj _).1 (crcFeedZeros_injective 8 h)
  apply BitVec.eq_of_getLsbD_eq
  intro i hi
  simpa [hi, show 16 + i < 24 by omega] using congrArg (BitVec.getLsbD · (16 + i)) hb

theorem crcFrom24_injective (s : List Byte) : Function.Injective (crcFrom24 · s) := by
  induction s with
  | nil => exact fun _ _ h => h
  | cons b s ih => exact ih.comp (crcStep24_left_injective b)

theorem crcFrom24_set_ne (a : Word24) (d : List Byte) {i : Nat} (h : i < d.length) {b : Byte} (hb : b ≠ d[i]) :
    crcFrom24 a (d.set i b) ≠ crcFrom24 a d := by
  induction d generalizing a i with
  | nil => cases h
  | cons c d ih =>
    cases i with
    | zero => exact fun he => hb (crcStep24_right_injective a (crcFrom24_injective d he))
    | succ i => exact ih _ _ hb

/-- Settles O16: the two sequences part at the byte and the register keeps them apart. -/
theorem singleBitErrorChangesCrc : Obligations.SingleBitErrorChangesCrc := by
  intro d i j hi hj he
  rw [crc24_eq_setWidth, crc24_eq_setWidth] at he
  refine crcFrom24_set_ne _ d hi ?_ (by simpa using congrArg (BitVec.setWidth 24) he)
  intro hb
  simpa [hj] using congrArg (BitVec.getLsbD · j) hb

/-! ### The fold (R141, R150) -/

theorem crcFrom_append (a : Word) (s t : List Byte) : crcFrom a (s ++ t) = crcFrom (crcFrom a s) t :=
  List.foldl_append

/-- Settles O12: a fold, whose mask bounds the result. -/
theorem crc24FoldsInOrder : Obligations.Crc24FoldsInOrder := by
  refine ⟨crcFrom_nil, fun a s b => crcFrom_append a s [b], fun s => ⟨rfl, ?_⟩, by decide⟩
  rw [crc24_eq_setWidth]
  exact Nat.le_of_lt_succ (toNat_setWidth_lt _)

/-- Settles O15: what a chunk leaves is a 24-bit value, so that storing it loses nothing. -/
theorem crcChunking : Obligations.CrcChunking := by
  intro a s t
  refine ⟨(crcFrom_append _ s t).symm, fun k => ?_, ?_⟩
  · rw [crcFrom_setWidth]
    exact toNat_setWidth_lt _
  · rintro u rfl
    simp [foldIntoAcc_eq, setAcc, crcFrom_append, crcFrom_setWidth]

end Sys2Proof.Machine
end

section
/-! PROOFS. The CRC family (41_crc24.md), the commands: what each stores in `ACC`, and what it leaves. -/

namespace Sys2Proof.Machine

theorem keepsOutcome_refl (s : State) : s.KeepsOutcome s := ⟨rfl, rfl, rfl, rfl, rfl, rfl, rfl, fun _ => rfl⟩

theorem keepsOutcome_setAcc (v : Word) (s : State) : s.KeepsOutcome (setAcc v s) :=
  ⟨rfl, rfl, rfl, rfl, rfl, rfl, rfl, fun _ => rfl⟩

theorem foldIntoAcc_nil (s : State) : foldIntoAcc [] s = s := by
  simp [foldIntoAcc_eq]

theorem textOperand_eq_nil {s : State} (h : s.textLen = 0) : textOperand s = [] := by
  simp [textOperand, h]

theorem payOperand_eq_nil {s : State} (h : s.payLen = 0) : payOperand s = [] := by
  simp [payOperand, h]

/-- Settles O17: the store, and at reset the seed stands in `ACC` already. -/
theorem crcInitSeedsAcc : Obligations.CrcInitSeedsAcc :=
  ⟨by decide, fun s => exec_crcInit s, fun s => ⟨rfl, exec_crcInit (resetMachine s)⟩⟩

/-- Settles O18: the fold of one byte; a word with that opcode decodes by its `RSV` field alone. -/
theorem crcByteFoldsOneByte : Obligations.CrcByteFoldsOneByte := by
  refine ⟨fun b s => ?_, fun w s hopc => ⟨fun hrsv => ?_, fun hrsv => ?_⟩, by decide⟩
  · rw [exec_crcByte, foldIntoAcc_eq]
    rfl
  · have hdec : decode w = .ok (.crcByte (imm8Field w)) := decode_of_fields hopc rfl hrsv
    rw [engineRun, hdec]
    rfl
  · exact ⟨_, engineRun_of_illegal ((decode_crcByteWord hopc).trans (if_neg hrsv)) s, rfl, rfl⟩

/-- Settles O19: the rule of the fold, over the text. -/
theorem crcTextFoldsRawText : Obligations.CrcTextFoldsRawText := by
  refine ⟨by decide, fun s => ⟨?_, fun h => ?_⟩⟩
  · rw [exec_crcText, foldIntoAcc_eq]
    rfl
  · rw [exec_crcText, textOperand_eq_nil h, foldIntoAcc_nil]
    rfl

/-- Settles O20: the rule of the fold, over the payload. -/
theorem crcPayFoldsPayload : Obligations.CrcPayFoldsPayload := by
  refine ⟨by decide, fun s => ⟨?_, fun h => ?_⟩⟩
  · rw [exec_crcPay, foldIntoAcc_eq]
    rfl
  · rw [exec_crcPay, payOperand_eq_nil h, foldIntoAcc_nil]
    rfl

/-- Settles O21: the comparison is equality of the registers (R149); a mismatch raises without touching either. -/
theorem crcCheckComparesAllBits : Obligations.CrcCheckComparesAllBits := by
  refine ⟨by decide, fun s => ⟨fun h => ?_, fun h => ?_⟩⟩
  · rw [exec_crcCheck, compareClaim_eq, if_pos h]
    rfl
  · refine ⟨_, exec_crcCheck s, completed_of_exec (exec_crcCheck s),
      keepsInputs_of_exec (by decide) (exec_crcCheck s), ?_⟩
    rw [compareClaim_eq, if_neg h]
    exact ⟨rfl, rfl, rfl, rfl, rfl, rfl, rfl, rfl⟩

/-- Settles O42: each of the five ends in a completion of the state itself or of one with a new `ACC`. -/
theorem crcCommandsFrame : Obligations.CrcCommandsFrame := by
  intro s i hi
  obtain ⟨u, he, hk, hacc⟩ :
      ∃ u, exec i s = .next (complete u) ∧ s.KeepsOutcome u ∧ (i = .nop → u.acc = s.acc) := by
    rcases hi with rfl | rfl | ⟨b, rfl⟩ | rfl | rfl
    · exact ⟨_, exec_nop s, keepsOutcome_refl s, fun _ => rfl⟩
    · exact ⟨_, exec_crcInit s, keepsOutcome_setAcc _ s, nofun⟩
    · exact ⟨_, exec_crcByte b s, keepsOutcome_setAcc _ s, nofun⟩
    · exact ⟨_, exec_crcText s, keepsOutcome_setAcc _ s, nofun⟩
    · exact ⟨_, exec_crcPay s, keepsOutcome_setAcc _ s, nofun⟩
  have hclear : i ≠ .clear := by rintro rfl; simp at hi
  exact ⟨_, he, completed_of_exec he, keepsInputs_of_exec hclear he, { hk with }, hacc⟩

end Sys2Proof.Machine
end

section
/-! PROOFS. The pipeline family (42_pipeline_control.md): `VALIDATE` of a text that decodes, its agreement with the commands it stands for over what a host sees, and the housekeeping commands. -/

namespace Sys2Proof.Machine

variable {s u x y : State}

/-! ### `VALIDATE` of a text that decodes (R170) -/

theorem crc24_setWidth_eq_iff {d : List Byte} {claim : Word24} :
    (crc24 d).setWidth 24 = claim ↔ crc24 d = claim.setWidth 32 := by
  constructor
  · rintro rfl
    exact (crc24_setWidth d).symm
  · intro h
    simp [h]

/-- Settles O35: the state after `decode_armor` and the fold is known, and the comparison only adds the outcome. -/
theorem validateComparesChecksum : Obligations.ValidateComparesChecksum := by
  intro s g0 g1 d c0 c1 c2 hs hd hc
  have hlen := length_lt_of_decodes hs hd
  have hok := decodeArmor_of_decodes hs hd hc
  obtain ⟨t, ht, hsplit⟩ := exec_recordsSplit (i := .armValidate) (by decide) s
  have heq := ht.symm.trans (exec_armValidate_of_ok hok)
  rw [compareClaim_checksum_storeDecoded hlen] at heq
  refine ⟨t, ht, completed_of_exec ht, keepsInputs_of_exec (by decide) ht, hsplit, ?_⟩
  by_cases hclaim : (crc24 d).setWidth 24 = c0 ++ c1 ++ c2
  · rw [if_pos hclaim] at heq
    cases heq
    have hpayLen : (storeDecoded d (c0 ++ c1 ++ c2) (recordSplit [g0, g1] s)).payLen.toNat = d.length := by
      simpa using Nat.mod_eq_of_lt hlen
    obtain ⟨hpay, hrest⟩ := payload_of_writeBytes (s := s) rfl hpayLen rfl
    exact ⟨rfl, crc24_setWidth d, rfl, fun _ => ⟨rfl, hpayLen, hpay, hrest⟩,
      absurd (crc24_setWidth_eq_iff.1 hclaim)⟩
  · rw [if_neg hclaim] at heq
    cases heq
    exact ⟨rfl, crc24_setWidth d, rfl, fun h => absurd (crc24_setWidth_eq_iff.2 h) hclaim, fun _ => ⟨rfl, rfl⟩⟩

/-! ### What a host sees, along the commands `VALIDATE` stands for (R171) -/

@[simp] theorem visible_complete (s : State) : (complete s).visible = s.visible := rfl

theorem visible_hostRead (off : Offset) (n : Width) (s : State) : (hostRead off n s).visible = s.visible := by
  obtain ⟨rs, k, h⟩ := hostRead_eq_record off n s
  rw [h]
  rfl

@[simp] theorem visible_readAll (rs : List (Offset × Width)) (s : State) : (readAll rs s).visible = s.visible := by
  induction rs generalizing s with
  | nil => rfl
  | cons r rs ih => exact (ih _).trans (visible_hostRead r.1 r.2 s)

theorem visible_setAcc (v : Word) (s : State) :
    (setAcc v s).visible = { s.visible with acc := v.setWidth 24 } := rfl

/-- `CRC_PAY` folds a payload the host sees into an `ACC` the host sees (R147). -/
theorem visible_foldPayload_congr (h : x.visible = y.visible) :
    (foldIntoAcc (payOperand x) x).visible = (foldIntoAcc (payOperand y) y).visible := by
  have hacc : x.acc = y.acc := congrArg Visible.acc h
  have hpay : payOperand x = payOperand y := congrArg Visible.payload h
  simp only [foldIntoAcc, accWord, visible_setAcc, hacc, hpay, h]

theorem visible_compareClaim (s : State) :
    (compareClaim s).visible =
      if s.visible.acc = s.visible.claimed then { s.visible with result := ⟨.ok, false, .noDetail⟩, errInfo := 0 }
      else { s.visible with
        result := ⟨.checksumMismatch, false, .noDetail⟩, errInfo := 0, payLen := 0, payload := [] } := by
  rw [compareClaim_eq]
  exact apply_ite State.visible ..

/-- Seeding and then folding the payload is the CRC half of `VALIDATE` (R144, R147, R170). -/
theorem foldPayload_seed (s : State) : foldIntoAcc (payOperand s) (setAcc crcSeed s) = checksumPayload s := by
  have hseed : (crcSeed.setWidth 24).setWidth 32 = crcSeed := by decide
  rw [foldIntoAcc, accWord, setAcc_acc, hseed]
  rfl

/-- The comparison writes the whole outcome, so one recorded before it leaves no trace. -/
theorem compareClaim_finishOk (s : State) : compareClaim (finishOk s) = compareClaim s := by
  rw [compareClaim_eq, compareClaim_eq]
  rfl

/-! ### `decode_armor` and the outcome (R175, R196) -/

theorem kind_ne_ok_of_decodeArmor_error (h : decodeArmor s = .error u) : u.result.kind ≠ .ok := by
  rcases decodeArmor_of_text s with ⟨segs, k, g, d, info, hk, -, hdec⟩ | ⟨segs, d, claim, -, hdec⟩
  · cases h.symm.trans (hdec s rfl rfl)
    exact hk
  · cases h.symm.trans (hdec s rfl rfl)

/-- Settles O36: after an `OK`, each of the three commands does to what the host sees what it does without the reads
between, and together they are the CRC half of `VALIDATE`; a failure is one of `decode_armor`, which both begin with. -/
theorem validateIsItsThreeSteps : Obligations.ValidateIsItsThreeSteps := by
  intro s t ht
  cases hdec : decodeArmor s with
  | error w =>
    have hkind := kind_ne_ok_of_decodeArmor_error hdec
    cases ht.symm.trans (exec_of_decodeArmor_error (.inl rfl) hdec)
    exact ⟨fun hok => absurd hok hkind,
      fun _ => exec_of_decodeArmor_error (.inr rfl) hdec⟩
  | ok w =>
    cases ht.symm.trans (exec_armDecode_of_ok hdec)
    refine ⟨fun _ r1 r2 r3 => ⟨_, _, _, _, exec_crcInit _, exec_crcPay _, exec_crcCheck _,
      exec_armValidate_of_ok hdec, ?_⟩, fun hne => absurd rfl hne⟩
    have hseeded (r1 r2) : (readAll r2 (complete (setAcc crcSeed (readAll r1 (complete (finishOk w)))))).visible =
        (setAcc crcSeed (finishOk w)).visible := by
      simp only [visible_readAll, visible_complete, visible_setAcc]
    have hfolded := visible_foldPayload_congr (hseeded r1 r2)
    rw [payOperand_setAcc, foldPayload_seed] at hfolded
    rw [visible_complete, visible_complete, visible_compareClaim, visible_readAll, visible_complete, hfolded,
      ← visible_compareClaim]
    exact congrArg State.visible (compareClaim_finishOk (checksumPayload w))

/-- The first segment is not empty, so what it decodes to is not (R115, R175). -/
theorem payLen_ne_zero_of_decodeArmor (h : decodeArmor s = .ok u) : u.payLen ≠ 0 := by
  have hc := decodeArmor_cases s
  rw [h] at hc
  cases hc with
  | decoded g0 g1 hs d c0 c1 c2 hd =>
    have hmem : g0 ∈ split (textOperand s) := by simp [hs]
    obtain ⟨hne, hin⟩ := split_bound hmem
    have hpos : 1 ≤ d.length := length_pos_of_b64Decode hne hin hd
    have hlt := length_lt_of_decodes hs hd
    rw [storeDecoded_payLen, ne_eq, ← BitVec.toNat_inj, BitVec.toNat_ofNat, Nat.mod_eq_of_lt hlt]
    simpa using Nat.ne_of_gt hpos

theorem payLen_compareClaim_of_ok (h : (compareClaim s).result.kind = .ok) : (compareClaim s).payLen = s.payLen := by
  rw [compareClaim_eq] at h ⊢
  split at h
  · rw [if_pos ‹_›]
    rfl
  · cases h

/-- Settles O37: an `OK` comes after a `decode_armor` that stored a payload, which only a mismatch would take away; over
no payload the CRC is the seed (C1). -/
theorem noOkWithEmptyPayload : Obligations.NoOkWithEmptyPayload := by
  refine ⟨fun s t i hi ht hok => ?_, fun s => ⟨_, _, exec_crcInit s, exec_crcCheck _, ?_⟩⟩
  · cases hdec : decodeArmor s with
    | error w =>
      have hkind := kind_ne_ok_of_decodeArmor_error hdec
      cases ht.symm.trans (exec_of_decodeArmor_error hi hdec)
      exact absurd hok hkind
    | ok w =>
      have hpay := payLen_ne_zero_of_decodeArmor hdec
      rcases hi with rfl | rfl
      · cases ht.symm.trans (exec_armDecode_of_ok hdec)
        exact hpay
      · cases ht.symm.trans (exec_armValidate_of_ok hdec)
        rw [complete_payLen, payLen_compareClaim_of_ok hok]
        exact hpay
  · have hseed : crcSeed.setWidth 24 = 0xB704CE#24 := by decide
    rw [compareClaim_eq, if_pos (by simpa using hseed)]
    rfl

/-! ### The housekeeping commands (R173, R174) -/

/-- Settles O40: completion is all there is to it. -/
theorem nopOnlyCompletes : Obligations.NopOnlyCompletes := ⟨by decide, exec_nop⟩

/-- Settles O41: the assignments of `CLEAR` and completion; no octet of the text is among them. -/
theorem clearRestoresResetValues : Obligations.ClearRestoresResetValues := by
  refine ⟨by decide, fun s => ⟨_, exec_clear s, completed_of_exec (exec_clear s), ?_⟩⟩
  have hseed : crcSeed.setWidth 24 = 0xB704CE#24 := by decide
  have htext (i : Nat) : textOctet (complete (clearState s)) i = textOctet s i := rfl
  simp [hseed, htext]

end Sys2Proof.Machine
end

section
/-! PROOFS. The exceptions family (60_exceptions.md), the outcomes: what the commands record where they fail, that a failure leaves no partial result, and completion. -/

namespace Sys2Proof.Machine

variable {s t u : State} {i : Instr}

/-! ### What a failure records (R192 to R194, R196) -/

/-- A raise after the record of the split leaves the state the three failures describe (R196); `w` is the value `RESULT`
then reads. -/
theorem exec_failedWith {segs : List Seg} {k : Kind} {g : Bool} {d : Detail} {info w : Word}
    (hs : split (textOperand s) = segs)
    (he : exec i s = .next (complete (raiseOutcome k g d info (recordSplit segs s))))
    (hk : k ≠ .checksumMismatch) (hw : resultWord ⟨k, g, d⟩ = w) :
    ∃ t, exec i s = .next t ∧ s.FailedWith t ⟨k, g, d⟩ info ∧ resultWord t.result = w := by
  subst hs
  exact ⟨_, he,
    { completed := completed_of_exec he
      inputs := keepsInputs_complete (keepsInputs_trans (keepsInputs_recordSplit ..) (keepsInputs_raiseOutcome ..))
      split := (recordsSplit_recordSplit s).congr rfl rfl rfl
      result := rfl
      errInfo := rfl
      acc := rfl
      claimed := if_neg hk
      payLen := rfl }, hw⟩

theorem exec_of_structural (hi : i = .armSplit ∨ i = .armDecode ∨ i = .armValidate)
    (hn : (split (textOperand s)).length ≠ 2) :
    exec i s = .next (complete
      (raiseStructural (split (textOperand s)).length (recordSplit (split (textOperand s)) s))) := by
  rcases hi with rfl | hi
  · rw [exec_armSplit, splitText_eq, if_neg hn]
  · exact exec_of_decodeArmor_error hi (decodeArmor_structural hn)

/-- Settles O31: each of the three commands raises the structural error after the record, and there are at most half as
many segments as octets, rounded up. -/
theorem structuralErrorOutcome : Obligations.StructuralErrorOutcome := by
  intro s i hi hn
  refine ⟨exec_failedWith rfl (exec_of_structural hi hn) (by decide) (by decide), fun hcap => ?_⟩
  have hlen := split_length (textOperand s)
  rw [length_textOperand] at hlen
  omega

theorem resultWord_decoding (d : Detail) :
    resultWord ⟨.decoding, false, d⟩ = 0x3#32 ||| (d.code <<< 4) ∧
      resultWord ⟨.decoding, true, d⟩ = 0xB#32 ||| (d.code <<< 4) := by
  cases d <;> decide

/-- Settles O32: the failing segment decides the case of `decode_armor`, the data segment first. -/
theorem decodingErrorOutcome : Obligations.DecodingErrorOutcome := by
  intro s i g0 g1 e hi hs
  obtain ⟨hdata, hchecksum⟩ := resultWord_decoding e.detail
  refine ⟨fun he => ?_, fun d hd he => ?_⟩
  · have hraise := decodeArmor_eq_of_case (.data g0 g1 hs e he)
    exact exec_failedWith hs (exec_of_decodeArmor_error hi hraise) (by decide) hdata
  · have hraise := decodeArmor_eq_of_case (.checksum g0 g1 hs d e hd he)
    exact exec_failedWith hs (exec_of_decodeArmor_error hi hraise) (by decide) hchecksum

/-- Four octets of a segment give at most three, also where some of them are skipped (R116, U15). -/
theorem four_mul_length_le_of_b64Decode {c : Config} {t out : List Byte} {g : Seg} (h : b64Decode c t g = .ok out) :
    4 * out.length ≤ 3 * g.len := by
  have hlen := (b64Decode_eq_ok_iff.1 h).length_eq
  have hkept : (keptOctets c (segOctets t g)).length ≤ g.len := by
    refine le_trans ?_ (List.length_take_le g.len (t.drop g.start))
    unfold keptOctets
    split
    · exact List.length_filter_le ..
    · exact le_rfl
  split_ifs at hlen <;> omega

/-- Settles O33: the case of `decode_armor`; the checksum segment is not empty, and before it stand at least the octet of
the data segment and a delimiter. -/
theorem checksumFormatOutcome : Obligations.ChecksumFormatOutcome := by
  intro s i g0 g1 d c hi hs hd hc hn
  have hraise := decodeArmor_eq_of_case (.format g0 g1 hs d c hd hc hn)
  obtain ⟨hpos0, -⟩ := split_bound (t := textOperand s) (g := g0) (by simp [hs])
  obtain ⟨hpos1, hin1⟩ := split_bound (t := textOperand s) (g := g1) (by simp [hs])
  refine ⟨exec_failedWith hs (exec_of_decodeArmor_error hi hraise) (by decide) (by decide),
    length_pos_of_b64Decode hpos1 hin1 hc, fun hcap => ?_⟩
  have horder : g0.start + g0.len < g1.start := by simpa [hs] using pairwise_split (textOperand s)
  have hlen := four_mul_length_le_of_b64Decode hc
  rw [length_textOperand] at hin1
  omega

/-! ### No partial results (R196) -/

/-- What a command that writes an outcome ends in: an `OK`, a mismatch, or a failure of its own before the checksums are
compared, with `ACC` still that of `s`. -/
inductive OutcomeCase (s : State) : State → Prop where
  | ok (u : State) : OutcomeCase s (complete (finishOk u))
  | mismatch (u : State) : OutcomeCase s (complete (raiseMismatch u))
  | failed (u : State) (k : Kind) (g : Bool) (d : Detail) (info : Word)
      (hk : k ∈ [.structural, .decoding, .checksumFormat]) (hd : k ≠ .decoding → g = false ∧ d = .noDetail)
      (hacc : u.acc = s.acc) : OutcomeCase s (complete (raiseOutcome k g d info u))

theorem outcome_compareClaim (s u : State) : OutcomeCase s (complete (compareClaim u)) := by
  rw [compareClaim_eq]
  split
  · exact .ok u
  · exact .mismatch u

theorem outcome_splitText (s : State) : OutcomeCase s (complete (splitText s)) := by
  rw [splitText_eq]
  split
  · exact .ok _
  · exact .failed _ .structural _ _ _ (by decide) (fun _ => ⟨rfl, rfl⟩) rfl

theorem outcome_decodeArmor_error (h : decodeArmor s = .error u) : OutcomeCase s (complete u) := by
  have hc := decodeArmor_cases s
  rw [h] at hc
  cases hc with
  | structural => exact .failed _ .structural _ _ _ (by decide) (fun _ => ⟨rfl, rfl⟩) rfl
  | data | checksum => exact .failed _ .decoding _ _ _ (by decide) (fun hne => absurd rfl hne) rfl
  | format => exact .failed _ .checksumFormat _ _ _ (by decide) (fun _ => ⟨rfl, rfl⟩) rfl

theorem exec_outcome_cases (hi : i = .crcCheck ∨ i = .armSplit ∨ i = .armDecode ∨ i = .armValidate)
    (he : exec i s = .next t) : OutcomeCase s t := by
  rcases hi with rfl | rfl | hi
  · cases he
    exact outcome_compareClaim s s
  · cases he
    exact outcome_splitText s
  · cases hdec : decodeArmor s with
    | error u =>
      cases he.symm.trans (exec_of_decodeArmor_error hi hdec)
      exact outcome_decodeArmor_error hdec
    | ok u =>
      rcases hi with rfl | rfl
      · cases he.symm.trans (exec_armDecode_of_ok hdec)
        exact .ok u
      · cases he.symm.trans (exec_armValidate_of_ok hdec)
        exact outcome_compareClaim s _

/-- Settles O38: each end of a command writes the whole outcome. -/
theorem noPartialResults : Obligations.NoPartialResults := by
  intro s t i hi he
  cases exec_outcome_cases hi he with
  | ok u => exact ⟨nofun, fun h => absurd rfl h, fun h => absurd rfl h, fun _ => rfl, fun _ => ⟨rfl, rfl⟩⟩
  | mismatch u =>
    exact ⟨nofun, fun _ => ⟨rfl, payOperand_eq_nil rfl⟩, fun _ h => absurd rfl h, fun _ => rfl, fun _ => ⟨rfl, rfl⟩⟩
  | failed u k g d info hk hd hacc =>
    have hkind : k ≠ .noOutcome ∧ k ≠ .ok ∧ k ≠ .checksumMismatch := by
      refine ⟨?_, ?_, ?_⟩ <;> rintro rfl <;> simp at hk
    obtain ⟨hnone, hok, hmis⟩ := hkind
    exact ⟨hnone, fun _ => ⟨rfl, payOperand_eq_nil rfl⟩, fun _ _ => ⟨if_neg hmis, hacc⟩,
      fun h => absurd h (not_or.2 ⟨hok, hmis⟩), hd⟩

/-! ### Completion (R190, R204) -/

/-- Settles O43: every command ends in a completion, and every command but `CLEAR` keeps its inputs. -/
theorem everyCommandCompletes : Obligations.EveryCommandCompletes := by
  intro i s
  obtain ⟨u, he, -⟩ := exec_eq_complete i s
  exact ⟨_, he, completed_of_exec he, fun hi => keepsInputs_of_exec hi he⟩

end Sys2Proof.Machine
end

section
/-! PROOFS. The exceptions family (60_exceptions.md), the interface: the engine's turn, the errors of a host access, the sticky flags and the interrupt output. -/

namespace Sys2Proof.Machine

variable {s t : State} {i : Instr} {w : Word}

/-! ### The engine's turn (R94, R204, R210) -/

theorem step_of_agenda_nil (h : s.agenda = []) : step s = engineTurn s := by
  simp [step, nextTurn, h]

theorem step_of_engine_turn {rest : List Turn} (h : s.agenda = .engine :: rest) :
    step s = engineTurn { s with agenda := rest } :=
  step_of_agenda h

theorem engineTurn_of_idle (h : s.pending = none) : engineTurn s = .next s := by
  rw [engineTurn, h]

theorem engineTurn_of_command (hp : s.pending = some w) (hd : decode w = .ok i) : engineTurn s = exec i s := by
  rw [engineTurn, hp]
  simp only [engineRun, hd]

theorem engineTurn_of_illegal {c : IllegalWord} (hp : s.pending = some w) (hd : decode w = .error c) :
    engineTurn s = .next (illegalCommand s) := by
  rw [engineTurn, hp]
  exact engineRun_of_illegal hd s

theorem decode_encode (i : Instr) : decode (encode i) = .ok i := (decodeIffEncoded _ _).2 rfl

/-- A word is its own row of 32 bits (R90). -/
theorem tableWord_toNat (w : Word) : tableWord 32 w.toNat = some w := by
  rw [tableWord, if_pos le_rfl, Nat.mod_eq_of_lt w.isLt, BitVec.ofNat_toNat, BitVec.setWidth_eq]

/-- Settles O6: the engine's turn is taken with the agenda empty or without its first turn, and what is pending decides
what it does. -/
theorem stepRunsDecodedCommand : Obligations.StepRunsDecodedCommand := by
  intro s
  refine ⟨fun w i hp hd => ⟨fun h => ?_, fun rest h => ?_⟩, fun w c hp hd => ⟨fun h => ?_, fun rest h => ?_⟩,
    fun hp => ⟨fun h => ?_, fun rest h => ?_⟩, fun i => ?_⟩
  · exact (step_of_agenda_nil h).trans (engineTurn_of_command hp hd)
  · exact (step_of_engine_turn h).trans (engineTurn_of_command hp hd)
  · exact (step_of_agenda_nil h).trans (engineTurn_of_illegal hp hd)
  · exact (step_of_engine_turn h).trans (engineTurn_of_illegal hp hd)
  · exact (step_of_agenda_nil h).trans (engineTurn_of_idle hp)
  · exact (step_of_engine_turn h).trans (engineTurn_of_idle hp)
  · have hplaced : s.withFetchWord 32 (encode i).toNat =
        { s with pending := some (encode i), agenda := .engine :: s.agenda } := by
      rw [State.withFetchWord, loadCommand, tableWord_toNat]
    rw [hplaced]
    exact (step_of_engine_turn rfl).trans (engineTurn_of_command rfl (decode_encode i))

/-! ### Interface errors (R200 to R202) -/

/-- Settles O44: the access answers BUS_ERR before its target is looked at. -/
theorem misalignedAccessIsBusError : Obligations.MisalignedAccessIsBusError := by
  intro s off n v hmis
  rw [← aligned_eq_false_iff] at hmis
  exact ⟨hostRead_misaligned hmis, hostWrite_misaligned hmis v⟩

/-- Settles O51: the write action of `TEXT_LEN`, on either side of the capacity. -/
theorem textLenWriteChecksCapacity : Obligations.TextLenWriteChecksCapacity := by
  intro s v hb
  rw [hostWrite_register s v _ .textLen rfl, writeReg, unlessBusy_of_idle _ hb, writeTextLen]
  refine ⟨fun hv => ?_, fun hv => ?_⟩
  · rw [if_pos hv]
    rfl
  · rw [if_neg (not_lt.2 hv)]
    rfl

/-- The registers whose writes wait for the end of a command (R200). -/
theorem writeReg_of_busy {r : Reg} (hr : r.offset ∈ [0x008, 0x018, 0x01C, 0x020]) (v : Word) (hb : s.busy = true) :
    writeReg r v s = dropWrite s := by
  cases r with
  | cmd | acc | claimed | textLen => exact if_pos hb
  | id | ctrl | status | result | errInfo | payLen | segCount | seg0 | seg1 | caps => simp [Reg.offset] at hr

/-- A busy write to one of the command's inputs is dropped (R200). -/
theorem poke_of_busy {off : Offset} {n : Width} (v : Word) (hb : s.busy = true) (ha : aligned off n = true)
    (hoff : (n = .word ∧ off.toNat ∈ [0x008, 0x018, 0x01C, 0x020]) ∨ (0x4000 ≤ off.toNat ∧ off.toNat < 0x8000)) :
    poke off n v s = dropWrite s := by
  rcases hoff with ⟨rfl, hoff⟩ | hoff
  · have hlt : off.toNat < 0x38 := by
      simp at hoff
      omega
    obtain ⟨r, hr⟩ := exists_regionOf_register hlt
    simp only [poke, hr, if_true]
    exact writeReg_of_busy (toNat_eq_offset ha hr ▸ hoff) v hb
  · have hr : regionOf off = .text (off.toNat - 0x4000) := (regionOf_text_iff _ _).2 (by omega)
    simp only [poke, hr]
    exact if_pos hb

/-- Settles O50: a write to an input is dropped, and only such a write sets `OVR`; `CTRL` and `STATUS` are written busy or
not. -/
theorem busyDropsWrites : Obligations.BusyDropsWrites := by
  intro s off n v hb hal
  rw [← aligned_iff] at hal
  refine ⟨fun hoff => ?_, fun hoff => ⟨fun h1 => ?_, ?_, ?_⟩⟩
  · rw [hostWrite_aligned hal, poke_of_busy v hb hal hoff]
    rfl
  · rw [hostWrite_aligned hal] at h1
    by_contra h0
    exact hoff (poke_sets_ovr hal (by simpa using h0) h1).2
  · rintro rfl ho
    rw [hostWrite_register s v off .ctrl ho]
    rfl
  · rintro rfl ho
    rw [hostWrite_register s v off .status ho]
    rfl

/-! ### The sticky flags (R211) -/

/-- No sticky flag of `s` is cleared in `t`. -/
structure State.KeepsSticky (s t : State) : Prop where
  cmdErr : s.cmdErr = true → t.cmdErr = true
  ovr : s.ovr = true → t.ovr = true
  lenErr : s.lenErr = true → t.lenErr = true

theorem State.KeepsInputs.keepsSticky (h : s.KeepsInputs t) : s.KeepsSticky t :=
  ⟨h.cmdErr.trans, h.ovr.trans, h.lenErr.trans⟩

theorem keepsSticky_unlessBusy {act : State → State} (h : s.KeepsSticky (act s)) :
    s.KeepsSticky (unlessBusy act s) := by
  rcases unlessBusy_cases act s with ⟨-, he⟩ | ⟨-, he⟩ <;> rw [he]
  · exact ⟨id, fun _ => rfl, id⟩
  · exact h

/-- No register but `STATUS` has a write action that clears a sticky flag. -/
theorem keepsSticky_writeReg {r : Reg} (hr : r ≠ .status) (v : Word) (s : State) :
    s.KeepsSticky (writeReg r v s) := by
  cases r with
  | status => exact absurd rfl hr
  | cmd => exact keepsSticky_unlessBusy (act := accept v) ⟨id, id, id⟩
  | acc => exact keepsSticky_unlessBusy (act := setAcc v) ⟨id, id, id⟩
  | claimed => exact keepsSticky_unlessBusy (act := setClaimed v) ⟨id, id, id⟩
  | textLen =>
    refine keepsSticky_unlessBusy ?_
    unfold writeTextLen
    split
    · exact ⟨id, id, fun _ => rfl⟩
    · exact ⟨id, id, id⟩
  | ctrl | id | result | errInfo | payLen | segCount | seg0 | seg1 | caps => exact ⟨id, id, id⟩

/-- A write clears no sticky flag, or is the 4-byte write to `STATUS` (R27). -/
theorem hostWrite_sticky_cases (off : Offset) (n : Width) (v : Word) (s : State) :
    s.KeepsSticky (hostWrite off n v s) ∨
      (n = .word ∧ off.toNat = 0x00C ∧ hostWrite off n v s = respond .ok (writeStatus v s)) := by
  rcases hostWrite_cases off n v s with ⟨-, he⟩ | ⟨ha, he⟩ <;> rw [he]
  · exact .inl ⟨id, id, id⟩
  · rcases poke_aligned_cases ha v s with hp | ⟨r, hn, ho, hp⟩ | ⟨j, hp⟩ <;> rw [hp]
    · exact .inl ⟨id, id, id⟩
    · by_cases hr : r = .status
      · subst hr
        exact .inr ⟨hn, ho, rfl⟩
      · exact .inl { keepsSticky_writeReg hr v s with }
    · exact .inl { keepsSticky_unlessBusy (s := s) (act := writeText j n v) ⟨id, id, id⟩ with }

/-- The transitions after which a sticky flag can be clear that was set before. -/
theorem step_sticky_cases (hs : step s = .next t) :
    s.KeepsSticky t ∨
    (∃ v rest, s.agenda = .write (s.cfg.base + 0x00C) .word v :: rest ∧
      t = respond .ok (writeStatus v s.turned)) ∨
    (s.pending = some (encode .clear) ∧ (s.agenda = [] ∨ ∃ rest, s.agenda = .engine :: rest)) ∨
    (∃ rest, s.agenda = .reset :: rest) := by
  cases next_cases hs with
  | idle => exact .inl ⟨id, id, id⟩
  | command ht w hp i hd _ he =>
    by_cases hi : i = .clear
    · subst hi
      exact .inr (.inr (.inl ⟨by rw [hp, (decodeIffEncoded w _).1 hd], ht⟩))
    · exact .inl { (keepsInputs_of_exec hi he).keepsSticky with }
  | illegal => exact .inl ⟨fun _ => rfl, id, id⟩
  | read off n =>
    obtain ⟨rs, dr, he⟩ := hostRead_eq_record off n s.turned
    rw [he]
    exact .inl ⟨id, id, id⟩
  | write off n v rest ht =>
    rcases hostWrite_sticky_cases off n v s.turned with hk | ⟨rfl, ho, he⟩
    · exact .inl { hk with }
    · exact .inr (.inl ⟨v, rest, ho ▸ ht, he⟩)
  | reset rest ht => exact .inr (.inr (.inr ⟨rest, ht⟩))

/-- Settles O58: apart from `CLEAR` and reset only the `STATUS` write clears a sticky flag, and that by the flag's bit. -/
theorem stickyFlagsClearedOnlyByTheirEvents : Obligations.StickyFlagsClearedOnlyByTheirEvents := by
  intro s t hs p hp h0 h1
  rcases step_sticky_cases hs with hk | ⟨v, rest, ht, rfl⟩ | hclear | hreset
  · obtain ⟨hcmdErr, hovr, hlenErr⟩ := hk
    simp only [List.mem_cons, List.not_mem_nil, or_false] at hp
    rcases hp with rfl | rfl | rfl
    · simp [hcmdErr h0] at h1
    · simp [hovr h0] at h1
    · simp [hlenErr h0] at h1
  · refine .inl ⟨v, rest, ht, ?_⟩
    have hkept (b c : Bool) (hb : b = true) (hbc : (b && !c) = false) : c = true := by simpa [hb] using hbc
    simp only [List.mem_cons, List.not_mem_nil, or_false] at hp
    rcases hp with rfl | rfl | rfl <;> exact hkept _ _ h0 h1
  · exact .inr (.inl hclear)
  · exact .inr (.inr hreset)

/-! ### The interrupt output (R205) -/

theorem flagAt_zero (v : Word) : flagAt (v.getLsbD 0) 0 = v &&& 1#32 := by
  unfold flagAt
  rw [BitVec.and_one_eq_setWidth_ofBool_getLsbD]
  cases v.getLsbD 0 <;> decide

/-- Completion sets `DONE` and no command changes `IE`, so the request is `IE` (R204, R205). -/
theorem irq_of_exec (he : exec i s = .next t) : t.irq = s.ie := by
  obtain ⟨u, hu, hk⟩ := exec_eq_complete i s
  cases hu.symm.trans he
  have hie : u.ie = s.ie := by
    rcases hk with ⟨-, rfl⟩ | hk
    · rfl
    · exact hk.ie
  simp [State.irq, hie]

/-- Settles O56: the writes of `CTRL`, `STATUS` and `CMD`, and completion, each by what it does to `IE` and `DONE`. -/
theorem interruptOutput : Obligations.InterruptOutput := by
  intro s v
  have hctrl : hostWrite 0x004#16 .word v s = respond .ok (writeCtrl v s) := hostWrite_register s v _ .ctrl rfl
  have hstatus : hostWrite 0x00C#16 .word v s = respond .ok (writeStatus v s) := hostWrite_register s v _ .status rfl
  have hcmd (hp : s.pending = none) : hostWrite 0x008#16 .word v s = respond .ok (accept v s) := by
    rw [hostWrite_register s v _ .cmd rfl, writeReg, unlessBusy_of_idle _ (by simp [State.busy, hp])]
  refine ⟨by simp [State.irq], ?_, ?_, fun hv => ?_, fun hv => ?_, fun hp => ?_, rfl, fun i => ?_⟩
  · rw [hctrl]
    rfl
  · rw [hctrl]
    exact flagAt_zero v
  · simp [hstatus, State.irq, hv]
  · rw [hctrl, State.irq, respond_ie, writeCtrl_ie, hv, Bool.false_and]
  · simp [hcmd hp, State.irq]
  · obtain ⟨u, he, -⟩ := exec_eq_complete i s
    exact ⟨_, he, irq_of_exec he⟩

end Sys2Proof.Machine
end

section
/-! PROOFS. The reset and hazards family (70_reset_and_hazards.md): the reset transition, the acceptance of a command, the reads while it is pending, and its completion after finitely many turns. -/

namespace Sys2Proof.Machine

variable {s t : State}

/-! ### Completion of a pending command (R204, R227) -/

/-- The machine moves where the turns to come reach the engine: only a host turn outside the window faults. -/
theorem exists_step_of_agendaReaches (h : s.agendaReaches) : ∃ t, step s = .next t := by
  have hc := step_cases s
  generalize step s = r at hc
  cases hc with
  | idle | illegal | read | write | reset => exact ⟨_, rfl⟩
  | command _ _ _ i =>
    obtain ⟨u, he, -⟩ := exec_eq_complete i s.turned
    exact ⟨_, he⟩
  | outside addr ho ht =>
    obtain ⟨rest, n, ht | ⟨v, ht⟩⟩ := ht
    · simpa [Turn.reaches, ho] using h (.read addr n) (by simp [ht])
    · simpa [Turn.reaches, ho] using h (.write addr n v) (by simp [ht])

/-- With a word pending, a transition completes the command, is the reset that discards it, or is a host turn, which
leaves it pending. -/
theorem step_cases_of_pending {w : Word} (hp : s.pending = some w) (hs : step s = .next t) :
    (t.pending = none ∧ (.reset ∉ s.agenda → t.done = true)) ∨
      ∃ turn, s.agenda = turn :: t.agenda ∧ t.pending = some w := by
  have hturned {turn : Turn} {rest : List Turn} (ht : s.agenda = turn :: rest) :
      s.agenda = turn :: s.turned.agenda := by
    simp [State.turned, ht]
  cases next_cases hs with
  | idle _ hidle => simp [hp] at hidle
  | command _ _ _ _ _ _ he =>
    have hcompleted := completed_of_exec he
    exact .inl ⟨hcompleted.idle, fun _ => hcompleted.done⟩
  | illegal => exact .inl ⟨rfl, fun _ => rfl⟩
  | reset rest ht => exact .inl ⟨rfl, fun hn => absurd (by simp [ht]) hn⟩
  | read off n rest ht =>
    obtain ⟨rs, d, he⟩ := hostRead_eq_record off n s.turned
    rw [he]
    exact .inr ⟨_, hturned ht, hp⟩
  | write off n v rest ht =>
    have hb : s.turned.busy = true := by simp [State.busy, State.turned, hp]
    obtain ⟨e, d, c, o, l, hpoke⟩ := poke_eq_flags_of_busy off n v hb
    rcases hostWrite_cases off n v s.turned with ⟨-, he⟩ | ⟨-, he⟩
    · rw [he]
      exact .inr ⟨_, hturned ht, hp⟩
    · rw [he, hpoke]
      exact .inr ⟨_, hturned ht, hp⟩

theorem agendaReaches_of_step {turn : Turn} (h : s.agendaReaches) (hs : step s = .next t)
    (hag : s.agenda = turn :: t.agenda) : t.agendaReaches := by
  intro x hx
  rw [step_cfg hs]
  exact h x (by simp [hag, hx])

theorem run_succ_of_step {M : Host.Core} {s t : M.State} (hs : M.step s = .next t) (k : Nat) :
    M.run (k + 1) s = M.run k t := by
  rw [Host.Core.run, hs]

/-- Each host turn before the command ends takes one turn off the agenda; with none left the engine moves. -/
theorem completes_of_pending (s : State) {w : Word} (hp : s.pending = some w) (hr : s.agendaReaches) :
    ∃ k ≤ s.agenda.length + 1, ∃ t : State,
      Sys2Proof.core.run k s = .next t ∧ t.pending = none ∧ (.reset ∉ s.agenda → t.done = true) := by
  obtain ⟨t, hs⟩ := exists_step_of_agendaReaches hr
  rcases step_cases_of_pending hp hs with ⟨hidle, hdone⟩ | ⟨turn, hag, hpending⟩
  · exact ⟨1, by omega, t, run_succ_of_step (M := Sys2Proof.core) hs 0, hidle, hdone⟩
  · obtain ⟨k, hk, u, hrun, hidle, hdone⟩ := completes_of_pending t hpending (agendaReaches_of_step hr hs hag)
    have hrun' := (run_succ_of_step (M := Sys2Proof.core) hs k).trans hrun
    refine ⟨k + 1, by simpa [hag] using hk, u, hrun', hidle, fun hn => hdone fun hmem => hn ?_⟩
    simp [hag, hmem]
termination_by s.agenda.length
decreasing_by simp [hag]

/-- Settles O8, by induction on the turns to come. -/
theorem pendingCommandCompletes : Obligations.PendingCommandCompletes :=
  fun s _ hp hr => completes_of_pending s hp hr

/-! ### Reads while a command is pending (R226) -/

theorem hostRead_volatile {off : Offset} {n : Width} (ha : aligned off n = true) (hb : s.busy = true)
    (hv : (regionOf off).volatile = true) : hostRead off n s = volatileRead n s := by
  simp [hostRead, ha, hb, hv]

theorem volatileRead_eq (n : Width) (s : State) :
    volatileRead n s =
      { s with
        responses := .data n (subWord n 0 (Config.volatileRead s.draws)) :: s.responses
        draws := s.draws + 1 } := by
  rw [← narrow_eq_subWord]
  rfl

/-- The offsets of R226's first list: `RESULT` to `CLAIMED`, `PAY_LEN` to `SEG1`, and the PAYLOAD window. -/
theorem volatile_regionOf_iff (off : Offset) :
    (regionOf off).volatile = true ↔
      (0x010 ≤ off.toNat ∧ off.toNat < 0x020) ∨ (0x024 ≤ off.toNat ∧ off.toNat < 0x034) ∨
        (0x8000 ≤ off.toNat ∧ off.toNat < 0xC000) := by
  match hr : regionOf off with
  | .register r =>
    have hoff := (regionOf_register_iff off r).1 hr
    cases r with
    | id | ctrl | cmd | status | textLen | caps =>
      simp only [Reg.offset] at hoff
      simp only [Region.volatile, Reg.volatile, Bool.false_eq_true, false_iff]
      omega
    | result | errInfo | acc | claimed | payLen | segCount | seg0 | seg1 =>
      simp only [Reg.offset] at hoff
      simp only [Region.volatile, Reg.volatile, true_iff]
      omega
  | .reserved =>
    have hoff := (regionOf_reserved_iff off).1 hr
    simp only [Region.volatile, Bool.false_eq_true, false_iff]
    omega
  | .text i =>
    have hoff := (regionOf_text_iff off i).1 hr
    simp only [Region.volatile, Bool.false_eq_true, false_iff]
    omega
  | .payload i =>
    have hoff := (regionOf_payload_iff off i).1 hr
    simp only [Region.volatile, true_iff]
    omega

/-- The registers of R226's second list. -/
theorem volatile_eq_false_of_offset {r : Reg}
    (h : BitVec.ofNat 16 r.offset ∈ [0x000#16, 0x004#16, 0x008#16, 0x00C#16, 0x020#16, 0x034#16]) :
    r.volatile = false := by
  cases r with
  | id | ctrl | cmd | status | textLen | caps => rfl
  | result | errInfo | acc | claimed | payLen | segCount | seg0 | seg1 => simp [Reg.offset] at h

/-- Settles O55: a read in the volatile regions is a draw, and each other region is read exactly, busy or not. -/
theorem busyReadsOfResultsAreUnspecified : Obligations.BusyReadsOfResultsAreUnspecified := by
  intro s n hb
  refine ⟨fun off hal hoff => ?_, fun p hp hlist k hk hn => ?_, fun off hal hoff => ?_, fun i hi hal => ?_⟩
  · rw [hostRead_volatile ((aligned_iff off n).2 hal) hb ((volatile_regionOf_iff off).2 hoff), volatileRead_eq]
  · rw [registers_eq, List.mem_map] at hp
    obtain ⟨r, -, rfl⟩ := hp
    exact hostRead_register_lane s r n k (by simp [volatile_eq_false_of_offset hlist]) hk hn
  · obtain ⟨haligned, -⟩ := reservedSpaceReadsZero s off n 0 hoff
    exact (haligned hal).1
  · exact ⟨_, hostRead_text hi hal s, ofLanes_range n _⟩

/-! ### Acceptance (R224) -/

/-- Settles O52: the write action of `CMD` is acceptance, of any word, or its drop. -/
theorem commandAcceptance : Obligations.CommandAcceptance := by
  intro s w
  rw [hostWrite_register s w _ .cmd rfl, writeReg]
  refine ⟨fun hp => ?_, fun hp => ?_⟩
  · rw [unlessBusy_of_idle _ (by simp [State.busy, hp])]
    rfl
  · have hb : s.busy = true := Option.isSome_iff_ne_none.2 hp
    rw [unlessBusy, if_pos hb]
    rfl

/-! ### Reset (R43, R220, R222) -/

theorem step_of_reset_turn {rest : List Turn} (h : s.agenda = .reset :: rest) :
    step s = .next (resetMachine { s with agenda := rest }) :=
  step_of_agenda h

/-- Settles O57: the transition is `resetMachine`, whose registers are those of `State.resetOf`; with `PAY_LEN = 0`
nothing of PAYLOAD is visible. -/
theorem resetSetsEveryRegister : Obligations.ResetSetsEveryRegister := by
  intro s rest h
  refine ⟨_, step_of_reset_turn h, ?_⟩
  have hpay : payOperand (resetMachine { s with agenda := rest }) = [] := payOperand_eq_nil rfl
  have hacc : (crcSeed.setWidth 24 : Word24) = 0xB704CE#24 := by decide
  exact ⟨rfl, rfl, rfl, rfl, rfl, rfl, rfl, rfl, hacc, rfl, rfl, rfl, rfl, rfl, rfl, rfl, rfl, rfl, hpay⟩

end Sys2Proof.Machine
end

section
/-! PROOFS. The encoding family (30_encoding.md), the table and the mnemonics: the fields a row's mask keeps (R93), the words written out from the table, and the store a mnemonic assembles to (R97). -/

namespace Sys2Proof

variable {w : Word}

/-! ### The rows of the opcode map (R93) -/

theorem opcField_and (v w : Word) : opcField (v &&& w) = opcField v &&& opcField w :=
  BitVec.extractLsb'_and

theorem imm8Field_and (v w : Word) : imm8Field (v &&& w) = imm8Field v &&& imm8Field w :=
  BitVec.extractLsb'_and

theorem rsvField_and (v w : Word) : rsvField (v &&& w) = rsvField v &&& rsvField w :=
  BitVec.extractLsb'_and

/-- A mask says, field by field, which bits of a word its row fixes. -/
theorem and_eq_iff_fields {m r : Word} :
    w &&& m = r ↔ opcField w &&& opcField m = opcField r ∧ imm8Field w &&& imm8Field m = imm8Field r ∧
      rsvField w &&& rsvField m = rsvField r := by
  rw [word_eq_iff_fields, opcField_and, imm8Field_and, rsvField_and]

/-- The mask of `CRC_BYTE` keeps `OPC` and `RSV` whole and nothing of `IMM8`. -/
theorem crcByteRow_selects_iff (w : Word) :
    w &&& 0xFFFF00FF#32 = 0x00000002#32 ↔ decode w = .ok (.crcByte (imm8Field w)) := by
  have hmask : opcField 0xFFFF00FF#32 = BitVec.allOnes 8 ∧ imm8Field 0xFFFF00FF#32 = 0#8 ∧
      rsvField 0xFFFF00FF#32 = BitVec.allOnes 16 := by decide
  have hmatch : opcField 0x00000002#32 = 0x02#8 ∧ imm8Field 0x00000002#32 = 0#8 ∧
      rsvField 0x00000002#32 = 0 := by decide
  obtain ⟨hopcMask, himmMask, hrsvMask⟩ := hmask
  obtain ⟨hopcMatch, himmMatch, hrsvMatch⟩ := hmatch
  rw [and_eq_iff_fields, hopcMask, himmMask, hrsvMask, hopcMatch, himmMatch, hrsvMatch, decodeIffEncoded,
    encode_eq_iff_fields]
  simp only [BitVec.and_allOnes, BitVec.and_zero, Instr.opcode, Instr.imm8, true_and]

/-- The full mask fixes every bit: the row selects the command's own word alone. -/
theorem fullRow_selects_iff (i : Instr) (w : Word) :
    w &&& 0xFFFFFFFF#32 = encode i ↔ decode w = .ok i := by
  have hmask : 0xFFFFFFFF#32 = BitVec.allOnes 32 := rfl
  rw [hmask, BitVec.and_allOnes, decodeIffEncoded, eq_comm]

/-- Settles O2: nine rows under the full mask, and the row of `CRC_BYTE`. -/
theorem opcodeRowsSelect : Obligations.OpcodeRowsSelect := by
  intro row hrow w
  simp only [List.mem_cons, List.not_mem_nil, or_false] at hrow
  rcases hrow with rfl | rfl | rfl | rfl | rfl | rfl | rfl | rfl | rfl | rfl
  · exact fullRow_selects_iff .nop w
  · exact fullRow_selects_iff .crcInit w
  · exact crcByteRow_selects_iff w
  · exact fullRow_selects_iff .crcText w
  · exact fullRow_selects_iff .crcPay w
  · exact fullRow_selects_iff .crcCheck w
  · exact fullRow_selects_iff .armSplit w
  · exact fullRow_selects_iff .armDecode w
  · exact fullRow_selects_iff .armValidate w
  · exact fullRow_selects_iff .clear w

/-- Settles O4: legal words by their fields, illegal ones by the equation of their kind of opcode. -/
theorem tableWordsDecode : Obligations.TableWordsDecode :=
  ⟨decode_of_fields (by decide) (by decide) (by decide),
    decode_of_fields (by decide) (by decide) (by decide),
    decode_of_fields (by decide) (by decide) (by decide),
    decode_of_fields (by decide) (by decide) (by decide),
    (decode_crcByteWord (by decide)).trans (if_neg (by decide)),
    (decode_plainWord (i := .crcInit) (by decide)).trans (if_neg (by decide)),
    decode_undefinedWord (by decide)⟩

/-! ### The mnemonics (R97) -/

/-- The word of `CRC_BYTE` with an operand that fits `IMM8`. -/
theorem encode_crcByte_ofNat {b : Nat} (hb : b ≤ 255) :
    encode (.crcByte (BitVec.ofNat 8 b)) = 0x00000002#32 ||| (BitVec.ofNat 32 b <<< 8) := by
  have hwide : (BitVec.ofNat 8 b).setWidth 32 = BitVec.ofNat 32 b :=
    BitVec.setWidth_ofNat_of_le_of_lt (by decide) (by omega)
  rw [encode, Instr.imm8, hwide, Instr.opcode]
  rfl

namespace Machine

theorem submit_eq (c : Config) (w : Word) : submit c w = .write (c.base + 0x008) .word w := rfl

theorem HostLine.assemble_of_wf {l : HostLine} (h : l.wf = true) (c : Config) : l.assemble c = some (l.turns c) :=
  if_pos h

theorem HostLine.assemble_of_not_wf {l : HostLine} (h : ¬l.wf = true) (c : Config) : l.assemble c = none := if_neg h

theorem HostLine.assemble_command (i : Instr) (c : Config) :
    (HostLine.command i).assemble c = some [.write (c.base + 0x008) .word (encode i)] := by
  rw [HostLine.assemble_of_wf rfl, HostLine.turns, submit_eq]

theorem HostLine.crcByte_wf_iff (b : Nat) : (HostLine.crcByte b).wf = true ↔ b ≤ 255 := by
  rw [HostLine.wf, decide_eq_true_iff]

/-- Settles O5: a plain mnemonic stores its word, and `crc.byte` is well-formed exactly up to 255. -/
theorem commandSyntaxAssembles : Obligations.CommandSyntaxAssembles := by
  intro c
  refine ⟨fun p hp => ?_, fun b hb => ?_, fun b hb => ?_⟩
  · have hword : encode p.1 = p.2 := by revert p; decide
    rw [HostLine.assemble_command, hword]
  · rw [HostLine.assemble_of_wf ((HostLine.crcByte_wf_iff b).2 hb), HostLine.turns, submit_eq, encode_crcByte_ofNat hb]
  · exact HostLine.assemble_of_not_wf (fun h => absurd ((HostLine.crcByte_wf_iff b).1 h) (by omega)) c

end Machine

end Sys2Proof
end
